-- ==== Sys2Proof/Word.lean ====
section
/-! DEFINITION. The words of the GX464: the byte, sets of hosts, and fixed tables with one entry per index. -/

namespace Sys2Proof

/-- One byte of a frame (spec 11.8). Multi-byte fields stand most significant byte first. -/
abbrev Byte := BitVec 8

/-- A set of hosts as section 11.8 codes it: the bit of weight 2^h stands for host h. -/
abbrev HostSet := BitVec 4

/-- A fixed number of like things, one per index. -/
abbrev Table (α : Type) (n : Nat) := Vector α n

/-- The entry of a table at an index. -/
def Table.look {α : Type} {n : Nat} (v : Table α n) (i : Fin n) : α := v[i.val]

/-- A table with one entry replaced. -/
def Table.put {α : Type} {n : Nat} (v : Table α n) (i : Fin n) (x : α) : Table α n :=
  v.set i.val x i.isLt

/-- A table whose entries are all the same. -/
def Table.const {α : Type} (n : Nat) (x : α) : Table α n := Vector.replicate n x

/-- A table with every entry changed in the same way. -/
def Table.mapAll {α β : Type} {n : Nat} (f : α → β) (v : Table α n) : Table β n :=
  Vector.mk (v.toList.map f).toArray (by simp)

/-- A table with every entry changed by a function of its index. -/
def Table.mapIdx {α β : Type} {n : Nat} (f : Fin n → α → β) (v : Table α n) : Table β n :=
  Vector.mk ((List.finRange n).map (fun i => f i v[i.val])).toArray (by simp)

end Sys2Proof
end

