-- ==== Sys2Proof/Config.lean ====
section
/-! DEFINITION. What the part fixes once (section 0.4), and the one free value of the model. -/

namespace Sys2Proof.Config

/-- The part identity byte of the JOIN reply (R126). -/
def partIdentity : Byte := 0x64

/-- Notice queue depth (section 0.4, R141). -/
def queueDepth : Nat := 8

/-- Staging list capacity (section 0.4, R158). -/
def stagingDepth : Nat := 8

/-- Most members of a coalesce group (section 0.4, R98). -/
def groupCapacity : Nat := 8

/-- Where a merge count and a starved-trigger count stop (section 0.4). -/
def countMax : Nat := 255

/-- Where a strike count stops (R91). -/
def strikeMax : Nat := 7

/-- The value the divider passes to 0 from (R1). -/
def dividerTop : Nat := 39

/-- FREE VALUE. Which of several events that the part gives no order among is taken next (R4): the
n-th such choice of a run. Nothing constrains it (log entries 4, 5 and 27). -/
opaque eventOrder : Nat → Nat

end Sys2Proof.Config
end

