-- ==== Sys2Proof/Syntax.lean ====
section
/-! DEFINITION. The commands of the GX464: one constructor of `Instr` per row of spec/opcode_table.json. -/

namespace Sys2Proof

/-- Hosts H0..H3, and their ports and ATTN lines. -/
abbrev HostId := Fin 4
/-- Records T0..T31. -/
abbrev Tag := Fin 32
/-- Line sources S0..S47. -/
abbrev LineId := Fin 48
/-- Posted sources: index n stands for S(48+n). -/
abbrev PostedId := Fin 16
/-- Coalesce groups G0..G7. -/
abbrev GroupId := Fin 8
/-- Urgency, 0 the most urgent (section 0.6). -/
abbrev Level := Fin 4
/-- The request tag of a frame (R174, R178). -/
abbrev RequestTag := BitVec 4

/-- What asserts chip reset at the pins (R5). -/
inductive ResetCause where
  /-- RSTn low continuously for the filter time t_RF. -/
  | rstnLow
  /-- RSTn low for less than t_RF. -/
  | rstnPulse
  /-- VDD below its power-on threshold. -/
  | vddLow
  deriving DecidableEq, Repr

/-- The two conditions that hold chip reset asserted, each of which ends by itself (R5). -/
inductive ResetHold where
  /-- RSTn is low. -/
  | rstn
  /-- VDD is below its threshold, or the power-on hold time runs. -/
  | power
  deriving DecidableEq, Repr

/-- The twenty requests of the port protocol with their argument bytes as sent (R190, section 11.8). -/
inductive Request where
  | join
  | leave (manner : Byte)
  | setFloor (floor : Byte)
  | peek
  | claim
  | extend (tag epoch : Byte)
  | complete (tag epoch : Byte)
  | handback (tag epoch : Byte)
  | raise (source : Byte) (payload : BitVec 16) (notify : Byte)
  | takeNotice
  | readRecord (tag : Byte)
  | readSource (source : Byte)
  | readGroup (group : Byte)
  | readPolicy
  | openSession
  | stageSource (source : Byte) (desc : Table Byte 5)
  | stageGroup (group : Byte) (desc : Table Byte 4)
  | stagePolicy (policy : Table Byte 12)
  | commit
  | discard
  deriving DecidableEq, Repr

/-- A command: one step of the part, whole and indivisible (95_what_each_step_holds.md). The rows of
requests carry the host, the request tag of the frame and the request's argument bytes. -/
inductive Instr where
  /-- CHIP_RESET (R5, R6). -/
  | chipReset (cause : ResetCause)
  /-- RELEASE (R5, R7): one of the conditions that hold chip reset ends. -/
  | release (ended : ResetHold)
  /-- REFCLK_RESUME (R2). -/
  | refclkResume
  /-- TICK_BOUNDARY (R1, R3, R11): bit n of `levels` is the raw level of line n at the boundary. -/
  | tickBoundary (levels : BitVec 48)
  /-- LINE_CHANGE (R12, R16). -/
  | lineChange (n : LineId)
  /-- WINDOW_EXPIRY (R56). -/
  | windowExpiry (t : Tag)
  /-- LEASE_EXPIRY (R90). -/
  | leaseExpiry (t : Tag)
  /-- SESSION_TIMER_EXPIRY (R155). -/
  | sessionTimerExpiry
  /-- TRANSACTION_START (R172, R8): `early` when the edge falls before t_RDY after release (R7). -/
  | transactionStart (h : HostId) (early : Bool)
  /-- TRANSACTION_END (R175, R8): the bits of MOSI at the rising edges of SCK, in order. -/
  | transactionEnd (h : HostId) (mosi : List Bool)
  /-- REPLY_PLACEMENT (R177). -/
  | replyPlacement (h : HostId)
  /-- JOIN (R124, R125). -/
  | join (h : HostId) (rt : RequestTag)
  /-- LEAVE with manner GRACEFUL (R127). -/
  | leaveGraceful (h : HostId) (rt : RequestTag)
  /-- LEAVE with manner IMMEDIATE (R130). -/
  | leaveImmediate (h : HostId) (rt : RequestTag)
  /-- SET_FLOOR (R134). -/
  | setFloor (h : HostId) (rt : RequestTag) (floor : Byte)
  /-- PEEK (R182). -/
  | peek (h : HostId) (rt : RequestTag)
  /-- CLAIM (R77). -/
  | claim (h : HostId) (rt : RequestTag)
  /-- EXTEND (R82). -/
  | extend (h : HostId) (rt : RequestTag) (tag epoch : Byte)
  /-- COMPLETE (R85). -/
  | complete (h : HostId) (rt : RequestTag) (tag epoch : Byte)
  /-- HANDBACK (R88). -/
  | handback (h : HostId) (rt : RequestTag) (tag epoch : Byte)
  /-- RAISE (R111, R112). -/
  | raise (h : HostId) (rt : RequestTag) (source : Byte) (payload : BitVec 16) (notify : Byte)
  /-- TAKE_NOTICE (R146, R147). -/
  | takeNotice (h : HostId) (rt : RequestTag)
  /-- READ_RECORD (R186). -/
  | readRecord (h : HostId) (rt : RequestTag) (tag : Byte)
  /-- READ_SOURCE (R26, R187). -/
  | readSource (h : HostId) (rt : RequestTag) (source : Byte)
  /-- READ_GROUP (R109, R187). -/
  | readGroup (h : HostId) (rt : RequestTag) (group : Byte)
  /-- READ_POLICY (R162). -/
  | readPolicy (h : HostId) (rt : RequestTag)
  /-- OPEN_SESSION (R154). -/
  | openSession (h : HostId) (rt : RequestTag)
  /-- STAGE_SOURCE (R159). -/
  | stageSource (h : HostId) (rt : RequestTag) (source : Byte) (desc : Table Byte 5)
  /-- STAGE_GROUP (R160). -/
  | stageGroup (h : HostId) (rt : RequestTag) (group : Byte) (desc : Table Byte 4)
  /-- STAGE_POLICY (R160). -/
  | stagePolicy (h : HostId) (rt : RequestTag) (policy : Table Byte 12)
  /-- COMMIT (R164). -/
  | commit (h : HostId) (rt : RequestTag)
  /-- DISCARD (R169). -/
  | discard (h : HostId) (rt : RequestTag)
  /-- REFCLK_STOP (R2). -/
  | refclkStop
  deriving DecidableEq, Repr

end Sys2Proof
end

