-- ==== Sys2Proof/Decode.lean ====
section
/-! DEFINITION. The command a word of the opcode table spells. The table gives no row any bits: the part takes
its commands from pins, from its own timers and in byte frames, so no word spells one (log entry 19). -/

namespace Sys2Proof

/-- The command of an opcode-table word: none, for no row of the table has bits. -/
def decodeTableWord (_nbits _w : Nat) : Option Instr := none

end Sys2Proof
end

