-- ==== Sys2Proof/Machine/State.lean ====
section
/-! DEFINITION. The state of the GX464 as plain data, and its value after chip reset. Where the spec says
that fields are absent together (a FREE record, an IDLE session, an unseeded line), the model holds them
under one Option. -/

namespace Sys2Proof.Machine

/-- The sense of a line source (section 2.2). -/
inductive Sense where
  | rising | falling | both | high | low
  deriving DecidableEq, Repr

/-- The clear policy of a source (section 2.2). -/
inductive ClearPolicy where
  | onComplete | onClaim
  deriving DecidableEq, Repr

/-- The descriptor fields that sources and groups share and that govern an origin's records (R53, R97). -/
structure Terms where
  level : Level
  /-- The hosts that may service the origin's records. -/
  route : HostSet
  preferred : Option HostId
  leaseClass : Fin 4
  reofferLimit : Fin 8
  /-- The exclusive window in ticks. -/
  window : Byte
  deriving DecidableEq, Repr

/-- A Source Descriptor (section 2.2). -/
structure SourceDescriptor where
  enabled : Bool
  sense : Sense
  clearPolicy : ClearPolicy
  group : Option GroupId
  debounce : Fin 16
  selfExclude : Bool
  terms : Terms
  deriving DecidableEq, Repr

/-- A Group Descriptor (section 6.1). -/
structure GroupDescriptor where
  enabled : Bool
  terms : Terms
  deriving DecidableEq, Repr

/-- The Policy record (R161). -/
structure Policy where
  /-- The duration of each lease class, in ticks. -/
  lease : Table (BitVec 16) 4
  extensionLimit : Fin 8
  strikeLimit : Fin 8
  sessionTimeout : BitVec 16
  deriving DecidableEq, Repr

/-- The filter and the reference level of one seeded line; `true` is the high level (sections 2.1, 2.3). -/
structure LineFilter where
  filtered : Bool
  candidate : Bool
  stable : Nat
  /-- The level the next line change is judged against (section 2.3). -/
  reference : Bool
  /-- The model's own: the last sample completed the change, and its line change is not delivered yet
  (R12, log entry 3). -/
  completes : Bool
  deriving DecidableEq, Repr

/-- A line source S0..S47: its entry of the Source Table and its filter in the Line Front End. -/
structure LineSource where
  desc : SourceDescriptor
  seq : Byte
  /-- Absent until the line is seeded (R13). -/
  filter : Option LineFilter
  /-- The starved mark with its starved-trigger count, which is 0 whenever the mark is clear (section 2.5). -/
  starved : Option Nat
  deriving DecidableEq, Repr

/-- A posted source S48..S63 (R110). -/
structure PostedSource where
  desc : SourceDescriptor
  seq : Byte
  deriving DecidableEq, Repr

/-- A coalesce group (sections 6.1 and 6.3). -/
structure Group where
  desc : GroupDescriptor
  /-- The collect set, in ascending source number, each source once (R99). -/
  collect : List LineId
  seq : Byte
  starved : Bool
  live : Option Tag
  deriving DecidableEq, Repr

/-- An origin, which fixes the kind of its records: 0..47 LINE, 48..63 POSTED, 64..71 GROUP (R27). -/
inductive Origin where
  | line (n : LineId)
  | posted (n : PostedId)
  | group (g : GroupId)
  deriving DecidableEq, Repr

/-- A timer (R3). `due` is a running timer with a remaining count of 0 that a tick boundary has found at
0: it expires at that boundary, and its expiry is not taken yet (R4, log entry 3). -/
inductive Timer where
  | stopped
  | running (remaining : Nat)
  | due
  deriving DecidableEq, Repr

/-- The state of a live record with the fields that only a CLAIMED record has (R27, R29). -/
inductive Phase where
  | pendingExcl
  | pendingOpen
  /-- `members` is the member snapshot of a GROUP record, and empty for the other kinds. -/
  | claimed (holder : HostId) (extensions : Nat) (members : List LineId)
  deriving DecidableEq, Repr

/-- The fields of a POSTED record alone (R27, R112). -/
structure PostedFields where
  payload : BitVec 16
  raiser : HostId
  notify : Bool
  deriving DecidableEq, Repr

/-- The fields of an Occurrence Record that are present while it is not FREE (R27). -/
structure Occurrence where
  origin : Origin
  seq : Byte
  level : Level
  merge : Nat
  again : Bool
  posted : Option PostedFields
  exclusion : HostSet
  reoffer : Nat
  phase : Phase
  deriving DecidableEq, Repr

/-- An Occurrence Record; it is FREE when `occ` is absent (R27, R28). -/
structure Record where
  epoch : Byte
  timer : Timer
  occ : Option Occurrence
  deriving DecidableEq, Repr

/-- The presence of a host (R121). -/
inductive Presence where
  | absent | present | draining | fenced
  deriving DecidableEq, Repr

/-- An entry of a service stack (section 5.1). -/
structure StackEntry where
  tag : Tag
  level : Level
  deriving DecidableEq, Repr

/-- A notice with the data items of its kind (R143). -/
inductive Notice where
  | revoked (tag : Tag) (origin : Origin) (seq : Byte)
  | hostFenced (host : HostId)
  | fenced (strikes : Nat)
  | abandoned (origin : Origin) (seq : Byte) (level : Level)
  | postedDone (source : PostedId) (seq : Byte) (completer : HostId)
  | postedAbandoned (source : PostedId) (seq : Byte)
  | configCommitted (committer : HostId) (count : Nat)
  | sessionExpired (count : Nat)
  deriving DecidableEq, Repr

/-- A Host Context (R121, section 5.1, R141). -/
structure HostContext where
  presence : Presence
  /-- Absent stands for CLOSED. -/
  floor : Option Level
  generation : Byte
  strikes : Nat
  /-- The service stack, its TOP entry at the head of the list. -/
  stack : List StackEntry
  /-- The notice queue, oldest first. -/
  queue : List Notice
  overflow : Bool
  deriving DecidableEq, Repr

/-- An entry of the staging list: its target with a whole staged record (R158). -/
inductive StagedEntry where
  | line (n : LineId) (desc : SourceDescriptor)
  | posted (n : PostedId) (desc : SourceDescriptor)
  | group (g : GroupId) (desc : GroupDescriptor)
  | policy (p : Policy)
  deriving DecidableEq, Repr

/-- The configuration session while it is OPEN (R152). -/
structure Session where
  holder : HostId
  timer : Timer
  staging : List StagedEntry
  deriving DecidableEq, Repr

/-- The sixteen result codes (R180). -/
inductive ResultCode where
  | ok | empty | stale | notJoined | fenced | draining | occupied | noRecord | disabled | limit | held
  | noSession | stagingFull | badArg | badConfig | frameError
  deriving DecidableEq, Repr

/-- The answer of a block to a request: its result code and its data bytes (R177, R178). -/
structure Answer where
  code : ResultCode
  data : List Byte
  deriving DecidableEq, Repr

/-- What a port works on: it is busy unless `idle` (R171, R176, R177). -/
inductive PortWork where
  | idle
  /-- A frame waits in the receive buffer, REFCLK being stopped (R2). -/
  | unjudged
  /-- A request is taken and not carried out yet. Of two requests taken at different ports that with the lower turn
  was taken first; those taken at one REFCLK_RESUME have the same turn (R63; log entry 27). -/
  | taken (rt : RequestTag) (req : Request) (turn : Nat)
  /-- The request was carried out in its turn, ahead of its row, since one taken later was carried out; its reply
  frame waits for its placement (log entry 27). -/
  | carried (rt : RequestTag) (req : Request) (frame : List Byte)
  /-- The reply frame is made and waits for its placement. -/
  | answered (frame : List Byte)
  deriving DecidableEq, Repr

/-- A transaction in progress, with what it sampled at its start (R172). -/
structure Transaction where
  status : Byte
  reply : Option (List Byte)
  /-- A reply has been placed in the slot since the transaction began; the slot keeps it for the next one. -/
  placed : Bool
  deriving DecidableEq, Repr

/-- A host port (section 11.1). -/
structure Port where
  /-- The chip select pin is low. -/
  csLow : Bool
  /-- The port has begun to recognise transactions since release (R7). -/
  recognising : Bool
  transaction : Option Transaction
  /-- The receive buffer. -/
  rx : List Byte
  work : PortWork
  slot : Option (List Byte)
  overrun : Bool
  /-- The model's own: the bits MISO carried at the rising edges of SCK of the last transaction ended (log
  entry 13). Whether MISO is driven now is `Port.misoPin`. -/
  miso : List Bool
  deriving DecidableEq, Repr

/-- The state of the GX464. -/
structure State where
  /-- REFCLK runs (R2). -/
  refclk : Bool
  divider : Nat
  /-- RSTn holds chip reset asserted (R5). -/
  rstnHold : Bool
  /-- The power-on detector holds chip reset asserted (R5). -/
  powerHold : Bool
  /-- The raw levels of the pins LINE0..LINE47 as last presented: bit n is that of line n (R11; log entry 2). -/
  rawLevels : BitVec 48
  /-- ATTN0..ATTN3, `true` when asserted (R10, R68). -/
  attn : Table Bool 4
  lineSources : Table LineSource 48
  postedSources : Table PostedSource 16
  groups : Table Group 8
  records : Table Record 32
  /-- The pending list of each level, head first (R50). -/
  lists : Table (List Tag) 4
  hosts : Table HostContext 4
  /-- The configuration session; absent while IDLE (R152). -/
  session : Option Session
  policy : Policy
  ports : Table Port 4
  /-- The model's own: how many free choices of order were made (log entry 4). -/
  choices : Nat
  /-- The model's own: the commands that wait, first in, first out. -/
  pending : List Instr
  deriving DecidableEq, Repr

/-- Why the machine stops with a fault. The part has no fault: no rule of the spec stops it, so there is
no constructor. -/
inductive Fault where
  deriving DecidableEq, Repr

/-- Why a command has no meaning. -/
inductive Refusal where
  /-- Raised by an arm of exec whose command has no meaning yet; safe. No arm raises it. -/
  | notModelled (mnemonic : String)
  deriving DecidableEq, Repr

/-- The terms of a descriptor after chip reset (sections 2.2 and 6.1). -/
def Terms.reset : Terms :=
  { level := 3, route := 15, preferred := none, leaseClass := 1, reofferLimit := 3, window := 0 }

/-- A Source Descriptor after chip reset (section 2.2). -/
def SourceDescriptor.reset : SourceDescriptor :=
  { enabled := false, sense := .rising, clearPolicy := .onComplete, group := none, debounce := 0,
    selfExclude := false, terms := Terms.reset }

/-- A Group Descriptor after chip reset (section 6.1). -/
def GroupDescriptor.reset : GroupDescriptor := { enabled := false, terms := Terms.reset }

/-- The Policy after chip reset (R161). -/
def Policy.reset : Policy :=
  { lease := ⟨#[100, 1000, 10000, 65535], rfl⟩, extensionLimit := 3, strikeLimit := 3,
    sessionTimeout := 50000 }

/-- A line source after chip reset: unseeded and unstarved (sections 2.1 to 2.5). -/
def LineSource.reset : LineSource :=
  { desc := SourceDescriptor.reset, seq := 0, filter := none, starved := none }

/-- A posted source after chip reset (R110). -/
def PostedSource.reset : PostedSource := { desc := SourceDescriptor.reset, seq := 0 }

/-- A group after chip reset (sections 6.1 and 6.3). -/
def Group.reset : Group :=
  { desc := GroupDescriptor.reset, collect := [], seq := 0, starved := false, live := none }

/-- A record after chip reset (R28). -/
def Record.reset : Record := { epoch := 0, timer := .stopped, occ := none }

/-- A Host Context after chip reset (R121). -/
def HostContext.reset : HostContext :=
  { presence := .absent, floor := none, generation := 0, strikes := 0, stack := [], queue := [],
    overflow := false }

/-- A port after chip reset, its chip select pin at the given level (section 11.1, R7). -/
def Port.resetWith (csLow : Bool) : Port :=
  { csLow := csLow, recognising := false, transaction := none, rx := [], work := .idle, slot := none,
    overrun := false, miso := [] }

/-- The machine right after release of chip reset (R7): every block at its chip reset value. REFCLK runs,
the chip selects are high and the lines low (DESIGN CHOICE, log entry 1); no command waits. -/
def State.reset : State :=
  { refclk := true, divider := 0, rstnHold := false, powerHold := false
    rawLevels := 0
    attn := Table.const 4 false
    lineSources := Table.const 48 LineSource.reset
    postedSources := Table.const 16 PostedSource.reset
    groups := Table.const 8 Group.reset
    records := Table.const 32 Record.reset
    lists := Table.const 4 []
    hosts := Table.const 4 HostContext.reset
    session := none
    policy := Policy.reset
    ports := Table.const 4 (Port.resetWith false)
    choices := 0
    pending := [] }

end Sys2Proof.Machine
end

