-- ==== Sys2Proof/Machine/Ops.lean ====
section
/-! DEFINITION. Named reads and updates of the state, timers, sets of hosts and of sources, and the
numbers that the wire layouts use. -/

namespace Sys2Proof.Machine

/-! ### One entry of each table -/

/-- The Host Context of host `h`. -/
def State.host (s : State) (h : HostId) : HostContext := s.hosts.look h
def State.setHost (s : State) (h : HostId) (c : HostContext) : State := { s with hosts := s.hosts.put h c }

/-- The port of host `h`. -/
def State.port (s : State) (h : HostId) : Port := s.ports.look h
def State.setPort (s : State) (h : HostId) (p : Port) : State := { s with ports := s.ports.put h p }

/-- The Occurrence Record with tag `t`. -/
def State.record (s : State) (t : Tag) : Record := s.records.look t
def State.setRecord (s : State) (t : Tag) (r : Record) : State := { s with records := s.records.put t r }

/-- The line source S(n). -/
def State.line (s : State) (n : LineId) : LineSource := s.lineSources.look n
def State.setLine (s : State) (n : LineId) (x : LineSource) : State :=
  { s with lineSources := s.lineSources.put n x }

/-- The posted source S(48+n). -/
def State.posted (s : State) (n : PostedId) : PostedSource := s.postedSources.look n
def State.setPosted (s : State) (n : PostedId) (x : PostedSource) : State :=
  { s with postedSources := s.postedSources.put n x }

/-- The coalesce group G(g). -/
def State.group (s : State) (g : GroupId) : Group := s.groups.look g
def State.setGroup (s : State) (g : GroupId) (x : Group) : State := { s with groups := s.groups.put g x }

/-- The pending list of a level. -/
def State.list (s : State) (l : Level) : List Tag := s.lists.look l
def State.setList (s : State) (l : Level) (ts : List Tag) : State := { s with lists := s.lists.put l ts }

/-- The fields of a record that are absent while it is FREE. -/
def State.occ (s : State) (t : Tag) : Option Occurrence := (s.record t).occ

/-- The fields of a live record replaced; its epoch and timer are kept. -/
def State.setOcc (s : State) (t : Tag) (c : Occurrence) : State :=
  s.setRecord t { s.record t with occ := some c }

/-- A record's timer replaced. -/
def State.setTimer (s : State) (t : Tag) (x : Timer) : State := s.setRecord t { s.record t with timer := x }

/-- Chip reset is asserted while either condition of R5 holds it. -/
def State.inReset (s : State) : Bool := s.rstnHold || s.powerHold

/-- Tick boundaries occur and timers and filters act: REFCLK runs and chip reset is released (R1, R2). -/
def State.clocked (s : State) : Bool := s.refclk && !s.inReset

/-! ### Sets of hosts and of sources -/

/-- The set that holds host `h` alone. -/
def hostBit (h : HostId) : HostSet := BitVec.ofNat 4 (2 ^ h.val)

/-- Host `h` is in the set. -/
def hasHost (set : HostSet) (h : HostId) : Bool := set.getLsbD h.val

/-- Every host of `route` is in `set`. -/
def covers (set route : HostSet) : Bool := route &&& ~~~set == 0

/-- An exclusion set enlarged by `more`, and cleared where it then covers the route set (R33). -/
def enlarge (route set more : HostSet) : HostSet :=
  if covers (set ||| more) route then 0 else set ||| more

/-- Every host, in ascending number. -/
def hostIds : List HostId := List.finRange 4
/-- Every tag, in ascending number. -/
def tags : List Tag := List.finRange 32
/-- Every line source, in ascending number. -/
def lineIds : List LineId := List.finRange 48
/-- Every group, in ascending number. -/
def groupIds : List GroupId := List.finRange 8
/-- Every level, the most urgent first. -/
def levels : List Level := List.finRange 4

/-- A source put into a set held in ascending order, once (R99). -/
def insertSource (n : LineId) : List LineId → List LineId
  | [] => [n]
  | m :: rest => if n < m then n :: m :: rest else if n = m then m :: rest else m :: insertSource n rest

/-- A source taken out of a set. -/
def removeSource (n : LineId) (set : List LineId) : List LineId := set.filter (fun m => decide (m ≠ n))

/-- The union of two sets, in ascending order (R47). -/
def unionSources (a b : List LineId) : List LineId := b.foldl (fun set n => insertSource n set) a

/-! ### Counts and timers -/

/-- A saturating count raised by `b` (section 0.6): it stops at `top`. -/
def saturate (top a b : Nat) : Nat := min top (a + b)

/-- A timer started or restarted for `d` ticks (R3). -/
def Timer.start (d : Nat) : Timer := .running d

/-- A timer at a tick boundary (R3): a count above 0 falls by one, a count of 0 expires. -/
def Timer.tick : Timer → Timer
  | .stopped => .stopped
  | .running 0 => .due
  | .running (k + 1) => .running k
  | .due => .due

/-- The timer runs, a timer that has reached its expiry and whose expiry is not taken included. -/
def Timer.runs : Timer → Bool
  | .stopped => false
  | _ => true

/-- The ticks remaining, 0 for a stopped timer (R186). -/
def Timer.remaining : Timer → Nat
  | .running k => k
  | _ => 0

/-! ### The phase of a record -/

/-- PENDING_EXCL or PENDING_OPEN (section 3.2). -/
def Phase.isPending : Phase → Bool
  | .pendingExcl | .pendingOpen => true
  | .claimed .. => false

/-- CLAIMED (section 3.2). -/
def Phase.isClaimed (p : Phase) : Bool := !p.isPending

/-- The extension count of a CLAIMED record, absent (0) otherwise. -/
def Phase.extensions : Phase → Nat
  | .claimed _ k _ => k
  | _ => 0

/-- The member snapshot of a CLAIMED record, absent (empty) otherwise. -/
def Phase.members : Phase → List LineId
  | .claimed _ _ ms => ms
  | _ => []

/-! ### Senses -/

/-- HIGH or LOW (section 2.3). -/
def Sense.isLevel : Sense → Bool
  | .high | .low => true
  | _ => false

/-- The active level of a level sense (section 2.3): high for HIGH, low for LOW. -/
def Sense.active : Sense → Bool
  | .low => false
  | _ => true

/-- An edge to the level `rising` matches an edge sense (R16). -/
def Sense.matchesEdge (rising : Bool) : Sense → Bool
  | .rising => rising
  | .falling => !rising
  | .both => true
  | _ => false

/-! ### Origins -/

/-- The origin number 0..71 (section 0.4). -/
def Origin.number : Origin → Nat
  | .line n => n.val
  | .posted n => 48 + n.val
  | .group g => 64 + g.val

/-- The kind code of an origin's records: 0 LINE, 1 GROUP, 2 POSTED (section 11.8). -/
def Origin.kindCode : Origin → Nat
  | .line _ => 0
  | .group _ => 1
  | .posted _ => 2

/-- The committed enabled field of an origin. -/
def State.enabledOf (s : State) : Origin → Bool
  | .line n => (s.line n).desc.enabled
  | .posted n => (s.posted n).desc.enabled
  | .group g => (s.group g).desc.enabled

/-- The governing terms of an origin's records: the group's for a GROUP record, the source's own for a
LINE or POSTED record, whether or not the source has since joined a group (R15, R53, R97). -/
def State.termsOf (s : State) : Origin → Terms
  | .line n => (s.line n).desc.terms
  | .posted n => (s.posted n).desc.terms
  | .group g => (s.group g).desc.terms

/-- The sequence counter of an origin (R22, R100). -/
def State.seqOf (s : State) : Origin → Byte
  | .line n => (s.line n).seq
  | .posted n => (s.posted n).seq
  | .group g => (s.group g).seq

/-- The sequence counter of an origin advanced by one, wrapping (R22, R100). -/
def State.advanceSeq (s : State) : Origin → State
  | .line n => s.setLine n { s.line n with seq := (s.line n).seq + 1 }
  | .posted n => s.setPosted n { s.posted n with seq := (s.posted n).seq + 1 }
  | .group g => s.setGroup g { s.group g with seq := (s.group g).seq + 1 }

/-- The members of a group: the line sources whose committed group field names it, ascending (R98). -/
def State.membersOf (s : State) (g : GroupId) : List LineId :=
  lineIds.filter (fun n => decide ((s.line n).desc.group = some g))

/-- The source stands: it is level-sensed and its filtered level is its active level (section 2.3). A line
not yet seeded has no filtered level, so its source does not stand (log entry 14). -/
def State.stands (s : State) (n : LineId) : Bool :=
  (s.line n).desc.sense.isLevel &&
    match (s.line n).filter with
    | some f => f.filtered == (s.line n).desc.sense.active
    | none => false

/-! ### Finding records -/

/-- The record is live and belongs to the origin. -/
def State.isLiveOf (s : State) (o : Origin) (t : Tag) : Bool :=
  match s.occ t with
  | some c => decide (c.origin = o)
  | none => false

/-- The record is PENDING. -/
def State.isPendingTag (s : State) (t : Tag) : Bool :=
  match s.occ t with
  | some c => c.phase.isPending
  | none => false

/-- The live records of an origin, in ascending tag (section 3.2). -/
def State.liveTags (s : State) (o : Origin) : List Tag := tags.filter (s.isLiveOf o)

/-- The PENDING record of an origin: it has at most one (R34). -/
def State.pendingTag (s : State) (o : Origin) : Option Tag :=
  tags.find? (fun t => s.isLiveOf o t && s.isPendingTag t)

/-- A CLAIMED record of an origin. Of an edge-sensed ON_COMPLETE source that holds two, as a grant within a commit can
leave it, R35 does not say which gets Again: the lowest tag (DESIGN CHOICE, log entry 30). -/
def State.claimedTag (s : State) (o : Origin) : Option Tag :=
  tags.find? (fun t => s.isLiveOf o t && !s.isPendingTag t)

/-- The lowest-numbered FREE tag (R31). -/
def State.freeTag (s : State) : Option Tag := tags.find? (fun t => (s.occ t).isNone)

/-- The pool free count (R31). -/
def State.freeCount (s : State) : Nat := tags.countP (fun t => (s.occ t).isNone)

/-! ### Bytes of the wire layouts (section 11.8) -/

/-- A number in one byte. -/
def byte (n : Nat) : Byte := BitVec.ofNat 8 n

/-- A 16-bit number, most significant byte first. -/
def bytes16 (w : BitVec 16) : List Byte := [w.extractLsb' 8 8, w.extractLsb' 0 8]

/-- A flag as a number. -/
def flagNat (b : Bool) : Nat := if b then 1 else 0

/-- A host or none in a whole byte. -/
def hostOrNone : Option HostId → Byte
  | some h => byte h.val
  | none => 0xFF

/-- A floor: 0..3, and 0xFF for CLOSED. -/
def floorByte : Option Level → Byte
  | some l => byte l.val
  | none => 0xFF

/-- The host state code: 0 ABSENT, 1 PRESENT, 2 DRAINING, 3 FENCED. -/
def Presence.code : Presence → Nat
  | .absent => 0
  | .present => 1
  | .draining => 2
  | .fenced => 3

/-- The record state code: 0 FREE, 1 PENDING_EXCL, 2 PENDING_OPEN, 3 CLAIMED. -/
def Phase.code : Phase → Nat
  | .pendingExcl => 1
  | .pendingOpen => 2
  | .claimed .. => 3

/-- The result codes (R190). -/
def ResultCode.toNat : ResultCode → Nat
  | .ok => 0
  | .empty => 1
  | .stale => 2
  | .notJoined => 3
  | .fenced => 4
  | .draining => 5
  | .occupied => 6
  | .noRecord => 7
  | .disabled => 8
  | .limit => 9
  | .held => 10
  | .noSession => 11
  | .stagingFull => 12
  | .badArg => 13
  | .badConfig => 14
  | .frameError => 15

/-- A notice entry: its kind and three data bytes, unused bytes 0 (R192). -/
def Notice.bytes : Notice → List Byte
  | .revoked t o q => [1, byte t.val, byte o.number, q]
  | .hostFenced h => [2, byte h.val, 0, 0]
  | .fenced k => [3, byte k, 0, 0]
  | .abandoned o q l => [4, byte o.number, q, byte l.val]
  | .postedDone n q h => [5, byte (48 + n.val), q, byte h.val]
  | .postedAbandoned n q => [6, byte (48 + n.val), q, 0]
  | .configCommitted h k => [7, byte h.val, byte k, 0]
  | .sessionExpired k => [8, byte k, 0, 0]

/-- An answer with no data. -/
def bare (code : ResultCode) : Answer := { code := code, data := [] }

/-- An OK answer. -/
def okWith (data : List Byte) : Answer := { code := .ok, data := data }

end Sys2Proof.Machine
end

