-- ==== Sys2Proof/Machine/Operands.lean ====
section
/-! DEFINITION. The argument codings of section 11.8, and its layouts of descriptors and the Policy record
as bytes, read from STAGE requests and written by the reads (R159, R160, R190, R191). -/

namespace Sys2Proof.Machine

/-- The bits of a byte from bit `lo` on, `width` of them. -/
def field (b : Byte) (lo width : Nat) : Nat := b.toNat / 2 ^ lo % 2 ^ width

/-- A number below a bound. -/
def below (bound n : Nat) : Option (Fin bound) := if h : n < bound then some ⟨n, h⟩ else none

/-- A four-bit host or none: 0..3, 15 none, other codings not allowed (R191). -/
def parsePreferred (n : Nat) : Option (Option HostId) :=
  if n = 15 then some none else (below 4 n).map some

/-- A four-bit group or none: 0..7, 15 none, other codings not allowed (R191). -/
def parseGroupField (n : Nat) : Option (Option GroupId) :=
  if n = 15 then some none else (below 8 n).map some

/-- A sense: 0 RISING, 1 FALLING, 2 BOTH, 3 HIGH, 4 LOW, other codings not allowed (R191). -/
def parseSense : Nat → Option Sense
  | 0 => some .rising
  | 1 => some .falling
  | 2 => some .both
  | 3 => some .high
  | 4 => some .low
  | _ => none

/-- A route set: not empty (R159, R160). -/
def parseRoute (n : Nat) : Option HostSet := if n = 0 then none else some (BitVec.ofNat 4 n)

/-- A source number 0..63 (R159): a line source or a posted source. -/
inductive SourceTarget where
  | line (n : LineId)
  | posted (n : PostedId)
  deriving DecidableEq, Repr

/-- The source that a byte names, none above 63 (R159, R187). -/
def parseSource (b : Byte) : Option SourceTarget :=
  if h : b.toNat < 48 then some (.line ⟨b.toNat, h⟩)
  else if h' : b.toNat < 64 then some (.posted ⟨b.toNat - 48, by omega⟩)
  else none

/-- The group that a byte names, none above 7 (R160, R187). -/
def parseGroup (b : Byte) : Option GroupId := below 8 b.toNat

/-- The tag that a byte names, none above 31 (R186). -/
def parseTag (b : Byte) : Option Tag := below 32 b.toNat

/-- A floor argument: 0..3, or 0xFF for CLOSED; no other coding (R134, section 11.8). -/
def parseFloor (b : Byte) : Option (Option Level) :=
  if b = 0xFF then some none
  else if hb : b.toNat < 4 then some (some ⟨b.toNat, hb⟩)
  else none

/-- A source number 48..63 as a posted source (R111 condition 2). -/
def parsePosted (source : Byte) : Option PostedId :=
  if hs : 48 ≤ source.toNat ∧ source.toNat < 64 then some ⟨source.toNat - 48, by omega⟩ else none

/-- The notify argument: 0 no, 1 yes; no other coding (section 11.8). -/
def parseNotify (b : Byte) : Option Bool :=
  if b = 0 then some false else if b = 1 then some true else none

/-- A Source Descriptor's five bytes, refused where a field lies outside its coding (R159, R191). -/
def parseSourceDescriptor (d : Table Byte 5) : Option SourceDescriptor := do
  let sense ← parseSense (field (d.look 0) 2 3)
  let level ← below 4 (field (d.look 0) 0 2)
  let route ← parseRoute (field (d.look 1) 4 4)
  let preferred ← parsePreferred (field (d.look 1) 0 4)
  let debounce ← below 16 (field (d.look 2) 4 4)
  let reofferLimit ← below 8 (field (d.look 2) 0 4)
  let group ← parseGroupField (field (d.look 3) 4 4)
  let leaseClass ← below 4 (field (d.look 3) 0 4)
  some
    { enabled := field (d.look 0) 7 1 == 1, sense := sense
      clearPolicy := if field (d.look 0) 6 1 = 1 then .onClaim else .onComplete
      group := group, debounce := debounce, selfExclude := field (d.look 0) 5 1 == 1
      terms :=
        { level := level, route := route, preferred := preferred, leaseClass := leaseClass
          reofferLimit := reofferLimit, window := d.look 4 } }

/-- The clear policy a source must not have: HIGH, LOW and posted sources require ON_COMPLETE (R159). -/
def SourceDescriptor.policyFits (d : SourceDescriptor) : SourceTarget → Bool
  | .line _ => !(d.sense.isLevel && decide (d.clearPolicy = .onClaim))
  | .posted _ => decide (d.clearPolicy = .onComplete)

/-- The staged entry of a STAGE_SOURCE, none where R159 refuses it with BAD_ARG. -/
def parseStageSource (source : Byte) (d : Table Byte 5) : Option StagedEntry := do
  let target ← parseSource source
  let desc ← parseSourceDescriptor d
  -- HIGH or LOW with ON_CLAIM is refused for a posted source too: its policy must be ON_COMPLETE.
  if desc.policyFits target then
    match target with
    | .line n => some (.line n desc)
    | .posted n => some (.posted n desc)
  else none

/-- The staged entry of a STAGE_GROUP, none where R160 refuses it with BAD_ARG. Bits 6 to 2 of byte 2 are
not read (R188, R191). -/
def parseStageGroup (group : Byte) (d : Table Byte 4) : Option StagedEntry := do
  let g ← parseGroup group
  let leaseClass ← below 4 (field (d.look 0) 4 4)
  let reofferLimit ← below 8 (field (d.look 0) 0 4)
  let route ← parseRoute (field (d.look 1) 4 4)
  let preferred ← parsePreferred (field (d.look 1) 0 4)
  let level ← below 4 (field (d.look 2) 0 2)
  some (.group g
    { enabled := field (d.look 2) 7 1 == 1
      terms :=
        { level := level, route := route, preferred := preferred, leaseClass := leaseClass
          reofferLimit := reofferLimit, window := d.look 3 } })

/-- Two bytes as a number, most significant first. -/
def word16 (hi lo : Byte) : BitVec 16 := hi ++ lo

/-- The staged entry of a STAGE_POLICY, none where R160 refuses it with BAD_ARG. -/
def parseStagePolicy (p : Table Byte 12) : Option StagedEntry := do
  let d0 := word16 (p.look 0) (p.look 1)
  let d1 := word16 (p.look 2) (p.look 3)
  let d2 := word16 (p.look 4) (p.look 5)
  let d3 := word16 (p.look 6) (p.look 7)
  let timeout := word16 (p.look 10) (p.look 11)
  let extensionLimit ← below 8 (p.look 8).toNat
  let strikeLimit ← below 8 (p.look 9).toNat
  if d0 = 0 ∨ d1 = 0 ∨ d2 = 0 ∨ d3 = 0 ∨ timeout.toNat < 1000 then none
  else some (.policy
    { lease := ⟨#[d0, d1, d2, d3], rfl⟩, extensionLimit := extensionLimit, strikeLimit := strikeLimit
      sessionTimeout := timeout })

/-! ### The same layouts, written -/

/-- The sense code of R191. -/
def Sense.code : Sense → Nat
  | .rising => 0
  | .falling => 1
  | .both => 2
  | .high => 3
  | .low => 4

/-- A number or none in a four-bit field, 15 for none. -/
def nibbleOrNone {n : Nat} : Option (Fin n) → Nat
  | some i => i.val
  | none => 15

/-- A route set and a preferred host in one byte (R191). -/
def Terms.routeByte (x : Terms) : Byte := byte (x.route.toNat * 16 + nibbleOrNone x.preferred)

/-- A Source Descriptor as five bytes (R191). -/
def SourceDescriptor.bytes (d : SourceDescriptor) : List Byte :=
  [ byte (flagNat d.enabled * 128 + flagNat (decide (d.clearPolicy = .onClaim)) * 64 +
      flagNat d.selfExclude * 32 + d.sense.code * 4 + d.terms.level.val),
    d.terms.routeByte,
    byte (d.debounce.val * 16 + d.terms.reofferLimit.val),
    byte (nibbleOrNone d.group * 16 + d.terms.leaseClass.val),
    d.terms.window ]

/-- A Group Descriptor as four bytes, the bits not read as 0 (R188, R191). -/
def GroupDescriptor.bytes (d : GroupDescriptor) : List Byte :=
  [ byte (d.terms.leaseClass.val * 16 + d.terms.reofferLimit.val),
    d.terms.routeByte,
    byte (flagNat d.enabled * 128 + d.terms.level.val),
    d.terms.window ]

/-- The Policy record as twelve bytes (R191). -/
def Policy.bytes (p : Policy) : List Byte :=
  bytes16 (p.lease.look 0) ++ bytes16 (p.lease.look 1) ++ bytes16 (p.lease.look 2) ++
    bytes16 (p.lease.look 3) ++ [byte p.extensionLimit.val, byte p.strikeLimit.val] ++
    bytes16 p.sessionTimeout

end Sys2Proof.Machine
end

