-- ==== Sys2Proof/Machine/Offers.lean ====
section
/-! DEFINITION. The Offer Logic of chapter 4: offerability, CLAIM selection, the counts and ATTN; and the
pending lists with the entry of a record into a PENDING state. -/

namespace Sys2Proof.Machine

/-- The running level of a host: the level of its top stack entry, or 4 when the stack is empty (R70). -/
def HostContext.runningLevel (c : HostContext) : Nat :=
  match c.stack with
  | [] => 4
  | e :: _ => e.level.val

/-- The floor admits the level: it is open, and the level is numerically at or below it (R60, R134). -/
def HostContext.floorAllows (c : HostContext) (l : Level) : Bool :=
  match c.floor with
  | some f => decide (l ≤ f)
  | none => false

/-- The record with these fields is offerable to host `h` (R60). -/
def State.offersTo (s : State) (h : HostId) (c : Occurrence) : Bool :=
  decide ((s.host h).presence = .present) &&
  (s.host h).floorAllows c.level &&
  hasHost (s.termsOf c.origin).route h &&
  !hasHost c.exclusion h &&
  decide (c.level.val < (s.host h).runningLevel) &&
  match c.phase with
  | .pendingOpen => true
  | .pendingExcl => decide ((s.termsOf c.origin).preferred = some h)
  | .claimed .. => false

/-- Record `t` is offerable to host `h` (R60). -/
def State.offerable (s : State) (h : HostId) (t : Tag) : Bool :=
  match s.occ t with
  | some c => s.offersTo h c
  | none => false

/-- The offerable count of a host (R69). -/
def State.offerableCount (s : State) (h : HostId) : Nat := tags.countP (s.offerable h)

/-- The pending count of a level (R69). -/
def State.pendingCount (s : State) (l : Level) : Nat := (s.list l).length

/-- The record a CLAIM of host `h` selects: from list 0 to list 3, the offerable record nearest the head of
the first list that holds one (R62). -/
def State.selection (s : State) (h : HostId) : Option Tag :=
  levels.findSome? (fun l => (s.list l).find? (s.offerable h))

/-- The condition of ATTN of host `h` (R68). -/
def State.attnCondition (s : State) (h : HostId) : Bool :=
  !s.inReset && (!(s.host h).queue.isEmpty || tags.any (s.offerable h))

/-- The Offer Logic re-evaluates and the ATTN outputs settle (R10, R67, R68; log entry 11). -/
def settle (s : State) : State := { s with attn := Table.mapIdx (fun h _ => s.attnCondition h) s.attn }

/-! ### Pending lists and windows -/

/-- A record joins the tail of the list of a level (R51). -/
def joinList (t : Tag) (l : Level) (s : State) : State := s.setList l (s.list l ++ [t])

/-- A record leaves the list of a level; the others keep their order (R52). -/
def leaveList (t : Tag) (l : Level) (s : State) : State :=
  s.setList l ((s.list l).filter (fun u => decide (u ≠ t)))

/-- The window condition (R55): the preferred host whose window a record with this exclusion set takes on
entry to a PENDING state. -/
def State.windowHost (s : State) (terms : Terms) (exclusion : HostSet) : Option HostId :=
  match terms.preferred with
  | some p =>
    if terms.window ≠ 0 ∧ hasHost terms.route p ∧ ¬ hasHost exclusion p ∧ (s.host p).presence = .present
    then some p else none
  | none => none

/-- Record `t` with the fields `c` enters a PENDING state: by the window condition it becomes PENDING_EXCL
with its window started, or PENDING_OPEN with its timer stopped, and it joins the tail of the list of its
level (R30, R34, R51, R55). -/
def enterPending (t : Tag) (c : Occurrence) (s : State) : State :=
  let terms := s.termsOf c.origin
  let entered : Record :=
    match s.windowHost terms c.exclusion with
    | some _ =>
      { epoch := (s.record t).epoch, timer := Timer.start terms.window.toNat
        occ := some { c with phase := .pendingExcl } }
    | none =>
      { epoch := (s.record t).epoch, timer := .stopped, occ := some { c with phase := .pendingOpen } }
  joinList t c.level (s.setRecord t entered)

/-- A PENDING_EXCL record becomes PENDING_OPEN in its place, its window stopped (R30, R54). -/
def openRecord (t : Tag) (s : State) : State :=
  match s.occ t with
  | some c =>
    match c.phase with
    | .pendingExcl =>
      s.setRecord t { s.record t with timer := .stopped, occ := some { c with phase := .pendingOpen } }
    | _ => s
  | none => s

/-- The record's governing origin prefers host `h`. -/
def State.prefers (s : State) (h : HostId) (t : Tag) : Bool :=
  match s.occ t with
  | some c => decide ((s.termsOf c.origin).preferred = some h)
  | none => false

/-- Every PENDING_EXCL record whose preferred host is `h` opens, since `h` leaves PRESENT (R57). -/
def openWindowsOf (h : HostId) (s : State) : State :=
  tags.foldl (fun s t => if s.prefers h t then openRecord t s else s) s

/-- The PENDING record of an origin moves to the tail of the list of its new level; its state, timer and
other fields are kept (R53). -/
def moveLevel (o : Origin) (l : Level) (s : State) : State :=
  match s.pendingTag o with
  | some t =>
    match s.occ t with
    | some c => joinList t l ((leaveList t c.level s).setOcc t { c with level := l })
    | none => s
  | none => s

/-- The PENDING_EXCL record of an origin opens, a commit having changed its preferred host (R58). -/
def openOrigin (o : Origin) (s : State) : State :=
  match s.pendingTag o with
  | some t => openRecord t s
  | none => s

end Sys2Proof.Machine
end

