-- ==== Sys2Proof/Machine/Pool.lean ====
section
/-! DEFINITION. The Occurrence Pool: creation, merges, freeing and the starvation grant (chapter 3), and the
triggers of sources and groups that ask for records (chapters 2 and 6). -/

namespace Sys2Proof.Machine

/-- The group takes a live-record reference, or loses it (R41, R102); other origins have none. -/
def setLive (o : Origin) (live : Option Tag) (s : State) : State :=
  match o with
  | .group g => s.setGroup g { s.group g with live := live }
  | _ => s

/-- A record is created for origin `o` in tag `t` (R32): the sequence counter advances, the level is read
from the committed descriptor, and the record enters a PENDING state. -/
def createRecord (t : Tag) (o : Origin) (merge : Nat) (posted : Option PostedFields)
    (exclusion : HostSet) (s : State) : State :=
  let s := s.advanceSeq o
  let c : Occurrence :=
    { origin := o, seq := s.seqOf o, level := (s.termsOf o).level, merge := merge, again := false
      posted := posted, exclusion := exclusion, reoffer := 0, phase := .pendingOpen }
  setLive o (some t) (enterPending t c s)

/-- A record's merge count rises by `k`, stopping at 255; nothing else of it changes (R35, R48, R49). -/
def mergeInto (t : Tag) (k : Nat) (s : State) : State :=
  match s.occ t with
  | some c => s.setOcc t { c with merge := saturate Config.countMax c.merge k }
  | none => s

/-- Again is set on a record (R35). -/
def setAgain (t : Tag) (s : State) : State :=
  match s.occ t with
  | some c => s.setOcc t { c with again := true }
  | none => s

/-! ### Triggers at the pool and at the tables -/

/-- A line source's starved mark and count are replaced (section 2.5). -/
def setLineStarved (n : LineId) (starved : Option Nat) (s : State) : State :=
  s.setLine n { s.line n with starved := starved }

/-- A group's starved mark is replaced (R106). -/
def setGroupStarved (g : GroupId) (starved : Bool) (s : State) : State :=
  s.setGroup g { s.group g with starved := starved }

/-- The pool creates a record for a line source's own origin in the lowest FREE tag, or answers with no
record, and the Source Table sets the starved mark with a count of 1 (R23, R31). -/
def createForLine (n : LineId) (s : State) : State :=
  match s.freeTag with
  | some t => createRecord t (.line n) 0 none 0 s
  | none => setLineStarved n (some 1) s

/-- A trigger of a line source's own origin (R17, R23, R35, R36, R37). The table of R35 has one live record; with two,
the trigger merges into a PENDING one, and with two CLAIMED sets Again on that of the lowest tag (DESIGN CHOICE, log
entry 30). -/
def triggerLine (n : LineId) (s : State) : State :=
  match (s.line n).starved with
  | some k => setLineStarved n (some (saturate Config.countMax k 1)) s
  | none =>
    if (s.line n).desc.sense.isLevel then createForLine n s
    else
      match s.pendingTag (.line n) with
      | some t => mergeInto t 1 s
      | none =>
        match (s.line n).desc.clearPolicy with
        | .onClaim => createForLine n s
        | .onComplete =>
          match s.claimedTag (.line n) with
          | some t => setAgain t s
          | none => createForLine n s

/-- The Group Table asks for a record for a group: one is created in the lowest FREE tag, or the group's
starved mark is set (R102, R106). -/
def requestGroup (g : GroupId) (s : State) : State :=
  match s.freeTag with
  | some t => createRecord t (.group g) 0 none 0 s
  | none => setGroupStarved g true s

/-- A member trigger of source `n` for group `g` (R101). -/
def memberTrigger (n : LineId) (g : GroupId) (s : State) : State :=
  if (s.group g).desc.enabled then
    let s := s.setGroup g { s.group g with collect := insertSource n (s.group g).collect }
    if (s.group g).starved then s
    else
      match (s.group g).live with
      | none => requestGroup g s
      | some t => if s.isPendingTag t then mergeInto t 1 s else s
  else s

/-- A line source fires: as a trigger of its own origin, or as a member trigger of its group (R17). -/
def fire (n : LineId) (s : State) : State :=
  match (s.line n).desc.group with
  | none => triggerLine n s
  | some g => memberTrigger n g s

/-- The test of an enabled, level-sensed line source that stands (R18): outside a group it fires when its
origin has no live record and no starved mark; in a group it fires a member trigger. -/
def levelTest (n : LineId) (s : State) : State :=
  if (s.line n).desc.enabled ∧ s.stands n then
    match (s.line n).desc.group with
    | none =>
      if (s.liveTags (.line n)).isEmpty ∧ (s.line n).starved = none then triggerLine n s else s
    | some g => memberTrigger n g s
  else s

/-! ### Freeing and the starvation grant -/

/-- The starved origins, in ascending origin number: line sources not in a group and groups that carry a
starved mark (section 3.7). -/
def State.starvedOrigins (s : State) : List Origin :=
  (lineIds.filter (fun n => (s.line n).starved.isSome && (s.line n).desc.group.isNone)).map Origin.line ++
  (groupIds.filter (fun g => (s.group g).starved)).map Origin.group

/-- The origin a freed tag is granted to: of the most urgent level, the lowest origin number (R43). -/
def State.grantChoice (s : State) : Option Origin :=
  levels.findSome? (fun l => s.starvedOrigins.find? (fun o => decide ((s.termsOf o).level = l)))

/-- The starved-trigger count an origin hands over at a grant, as the merge count of its record (R44). -/
def State.grantMerge (s : State) : Origin → Nat
  | .line n =>
    if (s.line n).desc.sense.isLevel then 0
    else match (s.line n).starved with
      | some k => k - 1
      | none => 0
  | _ => 0

/-- The starved mark of an origin is cleared, with its count (R24, R106). -/
def clearStarved (o : Origin) (s : State) : State :=
  match o with
  | .line n => setLineStarved n none s
  | .group g => setGroupStarved g false s
  | .posted _ => s

/-- A freed tag is granted to an origin (R44). -/
def grant (t : Tag) (o : Origin) (s : State) : State :=
  clearStarved o (createRecord t o (s.grantMerge o) none 0 s)

/-- The grant check on a freed tag (R41 step 4, R43). -/
def grantCheck (t : Tag) (s : State) : State :=
  match s.grantChoice with
  | some o => grant t o s
  | none => s

/-- A record becomes FREE (R41): its timer stops, it leaves its pending list if it was PENDING, its fields
become absent, its group loses its live-record reference, and the grant check is made on its tag. -/
def freeRecord (t : Tag) (s : State) : State :=
  match s.occ t with
  | some c =>
    let s := if c.phase.isPending then leaveList t c.level s else s
    let s := s.setRecord t { epoch := (s.record t).epoch, timer := .stopped, occ := none }
    grantCheck t (setLive c.origin none s)
  | none => s

/-- The PENDING record of an origin is withdrawn, with no notice (R42). -/
def withdraw (o : Origin) (s : State) : State :=
  match s.pendingTag o with
  | some t => freeRecord t s
  | none => s

end Sys2Proof.Machine
end

