-- ==== Sys2Proof/Machine/Notices.lean ====
section
/-! DEFINITION. Notice queues (chapter 9): placement, drop, flush and TAKE_NOTICE. -/

namespace Sys2Proof.Machine

/-- The host is PRESENT or DRAINING, so that a notice handed to its queue is judged for placement (R142). -/
def Presence.takesNotices : Presence → Bool
  | .present | .draining => true
  | .absent | .fenced => false

/-- A notice at a queue: placed at the tail, or dropped with the overflow flag set when 8 are queued (R144). -/
def HostContext.enqueue (c : HostContext) (n : Notice) : HostContext :=
  if c.queue.length < Config.queueDepth then { c with queue := c.queue ++ [n] }
  else { c with overflow := true }

/-- A notice handed to the queue of host `h` (R142, R144). -/
def place (h : HostId) (n : Notice) (s : State) : State :=
  if (s.host h).presence.takesNotices then s.setHost h ((s.host h).enqueue n) else s

/-- A notice handed to the queue of every host that satisfies a condition (R46, R132, R164). -/
def placeAll (who : HostId → Bool) (n : Notice) (s : State) : State :=
  hostIds.foldl (fun s h => if who h then place h n s else s) s

/-- A flush: the queue is emptied and the overflow flag cleared (R149). -/
def flush (h : HostId) (s : State) : State :=
  s.setHost h { s.host h with queue := [], overflow := false }

/-- TAKE_NOTICE (R146, R147): the oldest notice is removed and returned with the remaining count and the
overflow flag as it stood, which the request clears. -/
def takeNoticeRequest (h : HostId) (s : State) : State × Answer :=
  let c := s.host h
  match c.queue with
  | n :: rest =>
    (s.setHost h { c with queue := rest, overflow := false },
      okWith (n.bytes ++ [byte rest.length, byte (flagNat c.overflow)]))
  | [] =>
    (s.setHost h { c with overflow := false },
      { code := .empty, data := [0, byte (flagNat c.overflow)] })

end Sys2Proof.Machine
end

