-- ==== Sys2Proof/Machine/Return.lean ====
section
/-! DEFINITION. The return procedure of section 3.8: withdrawal at return, abandonment, merge-back,
merge-on-return and re-entry to a PENDING state. -/

namespace Sys2Proof.Machine

/-- The course a return took (R89). -/
inductive ReturnOutcome where
  | pending
  | merged (surviving : Tag)
  | abandoned
  | withdrawn
  deriving DecidableEq, Repr

/-- The POSTED_ABANDONED notice for the raiser of a POSTED record with notify set (R46 step 2, R117). -/
def noticePostedAbandoned (c : Occurrence) (s : State) : State :=
  match c.origin, c.posted with
  | .posted n, some p => if p.notify then place p.raiser (.postedAbandoned n c.seq) s else s
  | _, _ => s

/-- The Group Table, informed of the abandonment of its record, requests a record for a non-empty collect
set of an enabled group with no starved mark (R46 step 4, R102). -/
def requestAfterAbandon (g : GroupId) (s : State) : State :=
  if (s.group g).desc.enabled ∧ (s.group g).starved = false ∧ (s.group g).live = none ∧
      (s.group g).collect ≠ [] then requestGroup g s else s

/-- The origin may fire again after an abandonment (R46 steps 3 and 4). -/
def refireAfterAbandon (o : Origin) (s : State) : State :=
  match o with
  | .line n => levelTest n s
  | .group g => requestAfterAbandon g s
  | .posted _ => s

/-- The ABANDONED notices: to every host that is PRESENT and in the origin's route set (R46 step 1). -/
def noticeAbandoned (c : Occurrence) (s : State) : State :=
  placeAll (fun h => decide ((s.host h).presence = .present) && hasHost (s.termsOf c.origin).route h)
    (.abandoned c.origin c.seq c.level) s

/-- The abandonment of a returning record with the fields `c` (R46). -/
def abandon (t : Tag) (c : Occurrence) (s : State) : State :=
  refireAfterAbandon c.origin (noticePostedAbandoned c (noticeAbandoned c (freeRecord t s)))

/-- The sources of a snapshot that are enabled members of the group at this moment (R104). -/
def State.liveMembers (s : State) (g : GroupId) (ms : List LineId) : List LineId :=
  ms.filter (fun n => (s.line n).desc.enabled && decide ((s.line n).desc.group = some g))

/-- What a returning record gives back to its group: its snapshot merges into the collect set (R47, R104). -/
def mergeBack (c : Occurrence) (s : State) : State :=
  match c.origin with
  | .group g =>
    s.setGroup g { s.group g with
      collect := unionSources (s.group g).collect (s.liveMembers g c.phase.members) }
  | _ => s

/-- A returning record's Again mark becomes one merged trigger (R47). -/
def Occurrence.againMerged (c : Occurrence) : Occurrence :=
  if c.again then { c with again := false, merge := saturate Config.countMax c.merge 1 } else c

/-- A merge-on-return: the PENDING record `u` survives and takes over the counts and the exclusion set of
the returning record `c`; it opens when the union holds its origin's preferred host (R48). -/
def mergeReturn (u : Tag) (c : Occurrence) (s : State) : State :=
  match s.occ u with
  | some d =>
    let union := enlarge (s.termsOf c.origin).route d.exclusion c.exclusion
    let s := s.setOcc u { d with
      merge := saturate Config.countMax d.merge (c.merge + 1)
      reoffer := max d.reoffer c.reoffer
      exclusion := union }
    match (s.termsOf c.origin).preferred with
    | some p => if hasHost union p then openRecord u s else s
    | none => s
  | none => s

/-- The starved-trigger count of a line source absorbed by its returning record (R24, R49). -/
def absorbStarved (c : Occurrence) (s : State) : Occurrence × State :=
  match c.origin with
  | .line n =>
    match (s.line n).starved with
    | some k => ({ c with merge := saturate Config.countMax c.merge k }, setLineStarved n none s)
    | none => (c, s)
  | _ => (c, s)

/-- The steps of a return after the abandonment test (R47, R48, R49). -/
def returnKept (t : Tag) (c : Occurrence) (s : State) : State × ReturnOutcome :=
  let s := mergeBack c s
  let c := c.againMerged
  match s.pendingTag c.origin with
  | some u => (freeRecord t (mergeReturn u c s), .merged u)
  | none =>
    let (c, s) := absorbStarved c s
    (enterPending t c s, .pending)

/-- The return of record `t` from host `h` (R45 to R49). A record that is not CLAIMED does not return. -/
def returnRecord (t : Tag) (h : HostId) (s : State) : State × ReturnOutcome :=
  match s.occ t with
  | some c =>
    if c.phase.isClaimed then
      let s := s.setTimer t .stopped
      if s.enabledOf c.origin then
        let terms := s.termsOf c.origin
        let c := { c with
          exclusion := enlarge terms.route c.exclusion (hostBit h)
          reoffer := c.reoffer + 1 }
        if c.reoffer > terms.reofferLimit.val then (abandon t c s, .abandoned)
        else returnKept t c s
      else (freeRecord t s, .withdrawn)
    else (s, .withdrawn)
  | none => (s, .withdrawn)

end Sys2Proof.Machine
end

