-- ==== Sys2Proof/Machine/Presence.lean ====
section
/-! DEFINITION. Host presence and fencing (chapter 8): revocation, JOIN, LEAVE, drain completion, the fence
and the floor; and the drop of the configuration session (R156). -/

namespace Sys2Proof.Machine

/-- A record's entry is removed from a host's stack where it stands (R72). -/
def removeEntry (h : HostId) (t : Tag) (s : State) : State :=
  s.setHost h { s.host h with stack := (s.host h).stack.filter (fun e => decide (e.tag ≠ t)) }

/-- One entry of a revocation: it is removed, and its record is returned (R123). -/
def revokeEntry (h : HostId) (s : State) (e : StackEntry) : State :=
  (returnRecord e.tag h (removeEntry h e.tag s)).1

/-- The revocation of a host's records, from the top entry down to the bottom one (R123). -/
def revoke (h : HostId) (s : State) : State := (s.host h).stack.foldl (revokeEntry h) s

/-- The drop of the session, if host `h` holds it (R156). -/
def dropSession (h : HostId) (s : State) : State :=
  match s.session with
  | some x => if x.holder = h then { s with session := none } else s
  | none => s

/-- A host's presence and floor replaced. -/
def setStanding (h : HostId) (p : Presence) (floor : Option Level) (s : State) : State :=
  s.setHost h { s.host h with presence := p, floor := floor }

/-- The last steps of every JOIN: generation advanced, floor CLOSED, strikes 0, PRESENT (R124, R125). -/
def becomePresent (h : HostId) (s : State) : State :=
  s.setHost h { s.host h with
    presence := .present, floor := none, generation := (s.host h).generation + 1, strikes := 0 }

/-- JOIN (R124, R126), with the rejoin of a PRESENT or DRAINING host (R125). -/
def joinRequest (h : HostId) (s : State) : State × Answer :=
  let prior := (s.host h).presence
  let s := match prior with
    | .absent | .fenced => becomePresent h (flush h s)
    | .present | .draining => becomePresent h (flush h (dropSession h (revoke h s)))
  (s, okWith [(s.host h).generation, byte h.val, Config.partIdentity, byte prior.code])

/-- LEAVE with manner GRACEFUL (R127, R131). -/
def leaveGracefulRequest (h : HostId) (s : State) : State × Answer :=
  let held := (s.host h).stack.length
  let s := dropSession h s
  let s := if held = 0 then flush h (setStanding h .absent none s) else setStanding h .draining none s
  (openWindowsOf h s, okWith [byte (s.host h).presence.code, byte held])

/-- LEAVE with manner IMMEDIATE (R130, R131). -/
def leaveImmediateRequest (h : HostId) (s : State) : State × Answer :=
  let held := (s.host h).stack.length
  let prior := (s.host h).presence
  let s := flush h (setStanding h .absent none (dropSession h (revoke h s)))
  (if prior = .present then openWindowsOf h s else s, okWith [byte Presence.absent.code, byte held])

/-- LEAVE by its manner argument (R131). -/
def leaveRequest (h : HostId) (manner : Byte) (s : State) : State × Answer :=
  if manner = 0 then leaveGracefulRequest h s
  else if manner = 1 then leaveImmediateRequest h s
  else (s, bare .badArg)

/-- Drain completion: a DRAINING host whose stack is empty becomes ABSENT with an empty queue (R73, R129). -/
def drainCheck (h : HostId) (s : State) : State :=
  if (s.host h).presence = .draining ∧ (s.host h).stack = [] then
    flush h (s.setHost h { s.host h with presence := .absent })
  else s

/-- The FENCED notice placed in the flushed queue of the fenced host (R132 step 3, R142). -/
def placeFenced (h : HostId) (s : State) : State :=
  s.setHost h ((s.host h).enqueue (.fenced (s.host h).strikes))

/-- The fence of a host (R132). -/
def fence (h : HostId) (s : State) : State :=
  let s := revoke h (setStanding h .fenced none s)
  let s := placeFenced h (flush h s)
  let s := placeAll (fun g => decide (g ≠ h)) (.hostFenced h) s
  openWindowsOf h (dropSession h s)

/-- The strike step of a lease expiry (R91). -/
def strikeStep (h : HostId) (s : State) : State :=
  if (s.host h).presence = .present then
    let s := s.setHost h { s.host h with strikes := saturate Config.strikeMax (s.host h).strikes 1 }
    if 0 < s.policy.strikeLimit.val ∧ s.policy.strikeLimit.val ≤ (s.host h).strikes then fence h s else s
  else s

/-- SET_FLOOR (R134). -/
def setFloorRequest (h : HostId) (arg : Byte) (s : State) : State × Answer :=
  match parseFloor arg with
  | some f =>
    (s.setHost h { s.host h with floor := f }, okWith [floorByte (s.host h).floor, floorByte f])
  | none => (s, bare .badArg)

end Sys2Proof.Machine
end

