-- ==== Sys2Proof/Machine/Claims.lean ====
section
/-! DEFINITION. Claims, leases and the service stack (chapter 5): CLAIM, EXTEND, COMPLETE, HANDBACK and the
lease expiry; with the claim snapshot of a group (chapter 6). -/

namespace Sys2Proof.Machine

/-- The lease duration of an origin's records: the Policy entry of the governing lease class (R78). -/
def State.leaseOf (s : State) (o : Origin) : BitVec 16 := s.policy.lease.look (s.termsOf o).leaseClass

/-! ### CLAIM -/

/-- Each of these members of a group that is enabled, level-sensed and stands fires a member trigger, in the order of
the list (R21). -/
def fireMembers (g : GroupId) (ns : List LineId) (s : State) : State :=
  ns.foldl (fun s n => if (s.line n).desc.enabled ∧ s.stands n then memberTrigger n g s else s) s

/-- Every enabled, level-sensed member of a group that stands fires a member trigger, in ascending source
number (R21, R103). -/
def fireStandingMembers (g : GroupId) (s : State) : State := fireMembers g (s.membersOf g) s

/-- The claim snapshot: the collect set empties, and the standing level-sensed members fire into it (R103). -/
def claimSnapshot (o : Origin) (s : State) : State :=
  match o with
  | .group g => fireStandingMembers g (s.setGroup g { s.group g with collect := [] })
  | _ => s

/-- The member snapshot a claim takes: the collect set of a group, nothing for the other kinds (R103). -/
def State.snapshotOf (s : State) : Origin → List LineId
  | .group g => (s.group g).collect
  | _ => []

/-- The claim procedure on the selected record (R77). -/
def takeClaim (h : HostId) (t : Tag) (c : Occurrence) (s : State) : State :=
  let members := s.snapshotOf c.origin
  let s := leaveList t c.level s
  let s := s.setRecord t
    { epoch := (s.record t).epoch + 1, timer := Timer.start (s.leaseOf c.origin).toNat
      occ := some { c with phase := .claimed h 0 members } }
  let s := s.setHost h { s.host h with stack := ⟨t, c.level⟩ :: (s.host h).stack }
  claimSnapshot c.origin s

/-- The parts of a reply that only POSTED or only GROUP records have (R79, R192). -/
def kindData (c : Occurrence) (members : List LineId) : List Byte :=
  match c.origin, c.posted with
  | .posted _, some p => bytes16 p.payload ++ [byte p.raiser.val]
  | .group _, _ => byte members.length :: members.map (fun n => byte n.val)
  | _, _ => []

/-- The data of an accepted CLAIM (R79, R192). -/
def claimData (t : Tag) (epoch : Byte) (c : Occurrence) (lease : BitVec 16) (members : List LineId) :
    List Byte :=
  [byte t.val, epoch, byte c.origin.kindCode, byte c.origin.number, c.seq, byte c.level.val,
    byte c.merge, byte c.reoffer] ++ bytes16 lease ++ kindData c members

/-- CLAIM from a PRESENT host (R76, R77, R79). -/
def claimRequest (h : HostId) (s : State) : State × Answer :=
  match s.selection h with
  | some t =>
    match s.occ t with
    | some c =>
      (takeClaim h t c s,
        okWith (claimData t ((s.record t).epoch + 1) c (s.leaseOf c.origin) (s.snapshotOf c.origin)))
    | none => (s, bare .empty)
  | none => (s, bare .empty)

/-! ### The claim token -/

/-- The record that a valid token of host `h` names, with its tag (R75). -/
def State.validToken (s : State) (h : HostId) (tag epoch : Byte) : Option (Tag × Occurrence) :=
  if ht : tag.toNat < 32 then
    let t : Tag := ⟨tag.toNat, ht⟩
    match s.occ t with
    | some c =>
      match c.phase with
      | .claimed holder _ _ => if holder = h ∧ (s.record t).epoch = epoch then some (t, c) else none
      | _ => none
    | none => none
  else none

/-! ### EXTEND -/

/-- A CLAIMED phase with one more extension (R82). -/
def Phase.extended : Phase → Phase
  | .claimed h k ms => .claimed h (k + 1) ms
  | p => p

/-- EXTEND (R82, R83, R84). -/
def extendRequest (h : HostId) (tag epoch : Byte) (s : State) : State × Answer :=
  match s.validToken h tag epoch with
  | none => (s, bare .stale)
  | some (t, c) =>
    let limit := s.policy.extensionLimit.val
    let count := c.phase.extensions
    if count < limit then
      let lease := s.leaseOf c.origin
      (s.setRecord t
        { s.record t with
          timer := Timer.start lease.toNat, occ := some { c with phase := c.phase.extended } },
        okWith (bytes16 lease ++ [byte (count + 1), byte limit]))
    else
      (s, { code := .limit
            data := [byte count, byte limit] ++ bytes16 (BitVec.ofNat 16 (s.record t).timer.remaining) })

/-! ### COMPLETE -/

/-- The re-arm check (R39). -/
def State.rearms (s : State) (c : Occurrence) : Bool :=
  match c.origin with
  | .line n =>
    let d := (s.line n).desc
    d.enabled && d.group.isNone &&
      (if d.sense.isLevel then s.stands n else decide (d.clearPolicy = .onComplete) && c.again)
  | .group g => (s.group g).desc.enabled && !(s.group g).collect.isEmpty
  | .posted _ => false

/-- The re-arm: the record becomes a new occurrence of its origin in the same tag (R40). An origin that holds a second
live record against R32, as a grant within a commit can leave it, re-arms also while that one is PENDING, and so comes
to hold two PENDING records against R34 (DESIGN CHOICE, log entry 28). -/
def rearm (t : Tag) (c : Occurrence) (s : State) : State :=
  let s := s.advanceSeq c.origin
  enterPending t
    { c with
      seq := s.seqOf c.origin, level := (s.termsOf c.origin).level, merge := 0, again := false
      exclusion := 0, reoffer := 0 } s

/-- The POSTED_DONE notice for the raiser of a POSTED record with notify set (R85 step 5, R116). -/
def noticePostedDone (h : HostId) (c : Occurrence) (s : State) : State :=
  match c.origin, c.posted with
  | .posted n, some p => if p.notify then place p.raiser (.postedDone n c.seq h) s else s
  | _, _ => s

/-- A host's strike count set to 0 (R85 step 2). -/
def clearStrikes (h : HostId) (s : State) : State := s.setHost h { s.host h with strikes := 0 }

/-- The record state code of a tag: 0 FREE, 1 PENDING_EXCL, 2 PENDING_OPEN, 3 CLAIMED. -/
def State.stateCode (s : State) (t : Tag) : Nat :=
  match s.occ t with
  | some c => c.phase.code
  | none => 0

/-- The seq of a tag's record, 0 when it is FREE. -/
def State.seqByte (s : State) (t : Tag) : Byte :=
  match s.occ t with
  | some c => c.seq
  | none => 0

/-- COMPLETE (R85, R86). -/
def completeRequest (h : HostId) (tag epoch : Byte) (s : State) : State × Answer :=
  match s.validToken h tag epoch with
  | none => (s, bare .stale)
  | some (t, c) =>
    let s := clearStrikes h (removeEntry h t s)
    if s.rearms c then
      let s := rearm t c s
      (drainCheck h s, okWith [1, byte t.val, s.seqByte t, byte (s.stateCode t)])
    else
      (drainCheck h (noticePostedDone h c (freeRecord t s)), okWith [0, byte t.val])

/-! ### HANDBACK -/

/-- The data of an accepted HANDBACK (R89, R192). -/
def handbackData (t : Tag) (s : State) : ReturnOutcome → List Byte
  | .pending =>
    [0, byte t.val, byte (s.stateCode t),
      match s.occ t with
      | some c => byte c.reoffer
      | none => 0]
  | .merged u => [1, byte t.val, byte u.val]
  | .abandoned => [2, byte t.val]
  | .withdrawn => [3, byte t.val]

/-- HANDBACK (R88, R89). -/
def handbackRequest (h : HostId) (tag epoch : Byte) (s : State) : State × Answer :=
  match s.validToken h tag epoch with
  | none => (s, bare .stale)
  | some (t, _) =>
    let (s, outcome) := returnRecord t h (removeEntry h t s)
    (drainCheck h s, okWith (handbackData t s outcome))

/-! ### Lease expiry -/

/-- The expiry of the lease of record `t`, held by `h`, with the fields `c` (R90). -/
def expireLease (t : Tag) (h : HostId) (c : Occurrence) (s : State) : State :=
  let s := place h (.revoked t c.origin c.seq) (removeEntry h t s)
  let s := (returnRecord t h s).1
  drainCheck h (strikeStep h s)

end Sys2Proof.Machine
end

