-- ==== Sys2Proof/Machine/Reads.lean ====
section
/-! DEFINITION. The requests that change no state: PEEK and the four reads (R182, R186, R187, R192). -/

namespace Sys2Proof.Machine

/-- The session holder, none while the session is IDLE (R170). -/
def State.sessionHolder (s : State) : Option HostId := s.session.map (fun x => x.holder)

/-- The data of PEEK (R182, R192). -/
def State.peekData (s : State) (h : HostId) : List Byte :=
  let c := s.host h
  levels.map (fun l => byte (s.pendingCount l)) ++
    [ byte (s.offerableCount h), byte c.presence.code, c.generation, floorByte c.floor, byte c.strikes,
      byte s.freeCount, hostOrNone s.sessionHolder, byte c.stack.length ] ++
    c.stack.reverse.flatMap (fun e => [byte e.tag.val, byte e.level.val])

/-- PEEK (R182). -/
def peekRequest (h : HostId) (s : State) : State × Answer := (s, okWith (s.peekData h))

/-- Byte 1 of READ_RECORD: state, kind, Again, notify, timer running (R192). -/
def recordFlags (c : Occurrence) (timer : Timer) : Byte :=
  byte (c.phase.code * 64 + c.origin.kindCode * 16 + flagNat c.again * 8 +
    flagNat (c.posted.any (fun p => p.notify)) * 4 + flagNat timer.runs * 2)

/-- Byte 7 of READ_RECORD: holder present, holder, exclusion set (R192). -/
def holderByte (c : Occurrence) : Byte :=
  match c.phase with
  | .claimed h _ _ => byte (128 + h.val * 16 + c.exclusion.toNat)
  | _ => byte c.exclusion.toNat

/-- The part of READ_RECORD that only POSTED records and CLAIMED GROUP records have (R186, R192). -/
def recordTail (c : Occurrence) : List Byte :=
  match c.origin, c.phase with
  | .group _, .pendingExcl | .group _, .pendingOpen => []
  | _, _ => kindData c c.phase.members

/-- The data of READ_RECORD; absent fields are sent as 0 (R186, R192). -/
def State.recordData (s : State) (t : Tag) : List Byte :=
  let r := s.record t
  match r.occ with
  | none => [byte t.val, byte (flagNat r.timer.runs * 2), 0, 0, 0, 0, r.epoch, 0] ++
      bytes16 (BitVec.ofNat 16 r.timer.remaining)
  | some c =>
    [ byte t.val, recordFlags c r.timer, byte c.origin.number, c.seq,
      byte (c.level.val * 64 + c.reoffer % 8 * 8 + c.phase.extensions % 8), byte c.merge, r.epoch,
      holderByte c ] ++ bytes16 (BitVec.ofNat 16 r.timer.remaining) ++ recordTail c

/-- READ_RECORD (R186). -/
def readRecordRequest (tag : Byte) (s : State) : State × Answer :=
  match parseTag tag with
  | some t => (s, okWith (s.recordData t))
  | none => (s, bare .badArg)

/-- A change is in progress on a line: its candidate level differs from its filtered level (section 2.1). -/
def LineFilter.inProgress (f : LineFilter) : Bool := f.candidate != f.filtered

/-- The filtered level code: 0 low, 1 high, 2 unseeded (R192). -/
def filteredCode : Option LineFilter → Nat
  | some f => flagNat f.filtered
  | none => 2

/-- The line-status byte of a line source (R187, R192). -/
def State.lineStatus (s : State) (n : LineId) : Byte :=
  let x := s.line n
  byte (flagNat x.starved.isSome * 128 + filteredCode x.filter * 32 +
    flagNat (x.filter.any LineFilter.inProgress) * 16 + flagNat (s.stands n) * 8)

/-- The data of READ_SOURCE; a posted source has no filtered level (code 3) and no mark (R26, R110, R192). -/
def State.sourceData (s : State) : SourceTarget → List Byte
  | .line n =>
    [byte n.val] ++ (s.line n).desc.bytes ++
      [(s.line n).seq, byte ((s.line n).starved.getD 0), s.lineStatus n]
  | .posted n =>
    [byte (48 + n.val)] ++ (s.posted n).desc.bytes ++ [(s.posted n).seq, 0, byte (3 * 32)]

/-- READ_SOURCE (R26, R187). -/
def readSourceRequest (source : Byte) (s : State) : State × Answer :=
  match parseSource source with
  | some x => (s, okWith (s.sourceData x))
  | none => (s, bare .badArg)

/-- The collect set as a mask over the member list: bit i stands for the member at position i (R192). -/
def collectMask (collect : List LineId) : List LineId → Nat
  | [] => 0
  | m :: rest => flagNat (collect.contains m) + 2 * collectMask collect rest

/-- The data of READ_GROUP (R109, R192). -/
def State.groupData (s : State) (g : GroupId) : List Byte :=
  let x := s.group g
  let members := s.membersOf g
  [byte g.val] ++ x.desc.bytes ++
    [ x.seq, byte (flagNat x.starved * 128 + x.collect.length),
      match x.live with
      | some t => byte t.val
      | none => 0xFF,
      byte members.length ] ++
    members.map (fun n => byte n.val) ++ [byte (collectMask x.collect members)]

/-- READ_GROUP (R109, R187). -/
def readGroupRequest (group : Byte) (s : State) : State × Answer :=
  match parseGroup group with
  | some g => (s, okWith (s.groupData g))
  | none => (s, bare .badArg)

/-- READ_POLICY (R162, R187). -/
def readPolicyRequest (s : State) : State × Answer := (s, okWith s.policy.bytes)

end Sys2Proof.Machine
end

