-- ==== Sys2Proof/Machine/Flags.lean ====
section
/-! DEFINITION. The status byte of a port (R173, R190), and the presence check of every request (R122). -/

namespace Sys2Proof.Machine

/-- The host holds the configuration session (R170). -/
def State.holdsSession (s : State) (h : HostId) : Bool := decide (s.sessionHolder = some h)

/-- The status byte of a port, as it stands: host state, OFFER, NOTICE, NOTICE_LOST, SESSION, OVERRUN and
READY (R173, R190). -/
def State.statusByte (s : State) (h : HostId) : Byte :=
  byte ((s.host h).presence.code * 64 + flagNat (decide (0 < s.offerableCount h)) * 32 +
    flagNat (!(s.host h).queue.isEmpty) * 16 + flagNat (s.host h).overflow * 8 +
    flagNat (s.holdsSession h) * 4 + flagNat (s.port h).overrun * 2 + flagNat (s.port h).slot.isSome)

/-- A status byte shows OVERRUN (R173, R190). -/
def showsOverrun (status : Byte) : Bool := status.getLsbD 1

/-- How the presence check treats a request (the rows of R122). -/
inductive Admission where
  /-- Taken in every presence state: JOIN, TAKE_NOTICE, PEEK and the reads. -/
  | always
  /-- Taken while PRESENT or DRAINING: EXTEND, COMPLETE, HANDBACK and a LEAVE whose manner is not GRACEFUL. -/
  | joined
  /-- Taken while PRESENT: every other request. -/
  | presentOnly
  deriving DecidableEq, Repr

/-- The row of R122 that a request stands in. A LEAVE with a manner other than GRACEFUL is judged as LEAVE
IMMEDIATE (R131). -/
def admissionOf : Request → Admission
  | .join | .takeNotice | .peek | .readRecord _ | .readSource _ | .readGroup _ | .readPolicy => .always
  | .extend .. | .complete .. | .handback .. => .joined
  | .leave manner => if manner = 0 then .presentOnly else .joined
  | .setFloor _ | .claim | .raise .. | .openSession | .stageSource .. | .stageGroup .. | .stagePolicy _
  | .commit | .discard => .presentOnly

/-- The result a request is refused with at the presence check, none when it is taken (R122). -/
def refusal (a : Admission) (p : Presence) : Option ResultCode :=
  match a, p with
  | .always, _ => none
  | _, .present => none
  | _, .absent => some .notJoined
  | _, .fenced => some .fenced
  | .joined, .draining => none
  | .presentOnly, .draining => some .draining

end Sys2Proof.Machine
end

