-- ==== Sys2Proof/Machine/Frames.lean ====
section
/-! DEFINITION. Frames of the host port: bits to bytes, CRC-8, request frames and reply frames (sections
11.2 to 11.4, R190). -/

namespace Sys2Proof.Machine

/-- Eight bits as a byte, the most significant first (R8). -/
def byteOfBits (b7 b6 b5 b4 b3 b2 b1 b0 : Bool) : Byte :=
  byte (flagNat b7 * 128 + flagNat b6 * 64 + flagNat b5 * 32 + flagNat b4 * 16 + flagNat b3 * 8 +
    flagNat b2 * 4 + flagNat b1 * 2 + flagNat b0)

/-- The whole bytes of a transaction; bits after the last whole byte are discarded (R8). -/
def wholeBytes : List Bool → List Byte
  | b7 :: b6 :: b5 :: b4 :: b3 :: b2 :: b1 :: b0 :: rest =>
    byteOfBits b7 b6 b5 b4 b3 b2 b1 b0 :: wholeBytes rest
  | _ => []

/-- The bits of a byte, the most significant first (R8). -/
def bitsOf (b : Byte) : List Bool := (List.range 8).map b.getMsbD

/-- One step of the CRC register (R179). -/
def crcStep (reg : Byte) : Byte := if reg.msb then (reg <<< 1) ^^^ 0x07 else reg <<< 1

/-- The CRC register after one more byte (R179). -/
def crcByte (reg b : Byte) : Byte :=
  crcStep (crcStep (crcStep (crcStep (crcStep (crcStep (crcStep (crcStep (reg ^^^ b))))))))

/-- The CRC-8 of a frame's earlier bytes (R179). -/
def crc8 (bytes : List Byte) : Byte := bytes.foldl crcByte 0xFF

/-- The argument count of a header byte (R174, R190). -/
def headerCount (header : Byte) : Nat := header.toNat % 16

/-- The request tag of a header byte (R174, R190). -/
def headerTag (header : Byte) : RequestTag := header.extractLsb' 4 4

/-- The bytes of a frame that the port keeps: up to 3 plus its argument count (R174). -/
def keptFrame (bytes : List Byte) : List Byte :=
  match bytes with
  | c :: header :: rest => (c :: header :: rest).take (3 + headerCount header)
  | short => short

/-- The bytes begin a frame: there is a first byte, and it is not 0xFF (R174). -/
def carriesFrame : List Byte → Bool
  | [] => false
  | c :: _ => decide (c ≠ 0xFF)

/-- The reason of a FRAME_ERROR (R176). -/
inductive FrameFault where
  | short | crc | command | count
  deriving DecidableEq, Repr

/-- The reason code of R190. -/
def FrameFault.code : FrameFault → Nat
  | .short => 0
  | .crc => 1
  | .command => 2
  | .count => 3

/-- The argument count of a command code; none when the code is not one of the twenty (section 11.8). -/
def argumentCount (code : Byte) : Option Nat :=
  match code.toNat with
  | 0x10 => some 0
  | 0x11 => some 1
  | 0x12 => some 1
  | 0x13 => some 0
  | 0x20 => some 0
  | 0x21 => some 2
  | 0x22 => some 2
  | 0x23 => some 2
  | 0x24 => some 4
  | 0x28 => some 0
  | 0x30 => some 1
  | 0x31 => some 1
  | 0x32 => some 1
  | 0x33 => some 0
  | 0x40 => some 0
  | 0x41 => some 6
  | 0x42 => some 5
  | 0x43 => some 12
  | 0x44 => some 0
  | 0x45 => some 0
  | _ => none

/-- The request of a command code with its argument bytes; none where the code or the count is wrong
(section 11.8). -/
def parseRequest (code : Byte) (args : List Byte) : Option Request :=
  match code.toNat, args with
  | 0x10, [] => some .join
  | 0x11, [m] => some (.leave m)
  | 0x12, [f] => some (.setFloor f)
  | 0x13, [] => some .peek
  | 0x20, [] => some .claim
  | 0x21, [t, e] => some (.extend t e)
  | 0x22, [t, e] => some (.complete t e)
  | 0x23, [t, e] => some (.handback t e)
  | 0x24, [n, p1, p0, y] => some (.raise n (p1 ++ p0) y)
  | 0x28, [] => some .takeNotice
  | 0x30, [t] => some (.readRecord t)
  | 0x31, [n] => some (.readSource n)
  | 0x32, [g] => some (.readGroup g)
  | 0x33, [] => some .readPolicy
  | 0x40, [] => some .openSession
  | 0x41, [n, a, b, c, d, e] => some (.stageSource n ⟨#[a, b, c, d, e], rfl⟩)
  | 0x42, [g, a, b, c, d] => some (.stageGroup g ⟨#[a, b, c, d], rfl⟩)
  | 0x43, [a, b, c, d, e, f, g, h, i, j, k, l] =>
    some (.stagePolicy ⟨#[a, b, c, d, e, f, g, h, i, j, k, l], rfl⟩)
  | 0x44, [] => some .commit
  | 0x45, [] => some .discard
  | _, _ => none

/-- The command code of a request (section 11.8). -/
def requestCode : Request → Byte
  | .join => 0x10
  | .leave _ => 0x11
  | .setFloor _ => 0x12
  | .peek => 0x13
  | .claim => 0x20
  | .extend .. => 0x21
  | .complete .. => 0x22
  | .handback .. => 0x23
  | .raise .. => 0x24
  | .takeNotice => 0x28
  | .readRecord _ => 0x30
  | .readSource _ => 0x31
  | .readGroup _ => 0x32
  | .readPolicy => 0x33
  | .openSession => 0x40
  | .stageSource .. => 0x41
  | .stageGroup .. => 0x42
  | .stagePolicy _ => 0x43
  | .commit => 0x44
  | .discard => 0x45

/-- The argument bytes of a request, in the order of section 11.8. -/
def requestArgs : Request → List Byte
  | .leave m => [m]
  | .setFloor f => [f]
  | .extend t e | .complete t e | .handback t e => [t, e]
  | .raise n p y => [n] ++ bytes16 p ++ [y]
  | .readRecord t => [t]
  | .readSource n => [n]
  | .readGroup g => [g]
  | .stageSource n d => n :: d.toList
  | .stageGroup g d => g :: d.toList
  | .stagePolicy p => p.toList
  | .join | .peek | .claim | .takeNotice | .readPolicy | .openSession | .commit | .discard => []

/-- The request frame of a request (R190). -/
def requestFrame (rt : RequestTag) (req : Request) : List Byte :=
  let body := [requestCode req, rt ++ BitVec.ofNat 4 (requestArgs req).length] ++ requestArgs req
  body ++ [crc8 body]

/-- A reply frame (R178, R190). -/
def replyFrame (rt : RequestTag) (command : Byte) (a : Answer) : List Byte :=
  let body := [rt ++ BitVec.ofNat 4 a.code.toNat, command, byte a.data.length] ++ a.data
  body ++ [crc8 body]

/-- The outcome of a frame's checks (R176 conditions 2 to 6). -/
inductive Judgement where
  | fault (rt : RequestTag) (command : Byte) (why : FrameFault)
  | passed (rt : RequestTag) (req : Request)
  deriving DecidableEq, Repr

/-- The checks of a frame, in the order of R176. The tag of a frame whose header byte did not arrive is 0. -/
def checkFrame (frame : List Byte) : Judgement :=
  match frame with
  | [] => .fault 0 0 .short
  | [c] => .fault 0 c .short
  | c :: header :: rest =>
    let rt := headerTag header
    if rest.length < headerCount header + 1 then .fault rt c .short
    else
      let args := rest.take (headerCount header)
      if rest[headerCount header]? ≠ some (crc8 (c :: header :: args)) then .fault rt c .crc
      else
        match argumentCount c with
        | none => .fault rt c .command
        | some k =>
          if k ≠ headerCount header then .fault rt c .count
          else
            match parseRequest c args with
            | some req => .passed rt req
            | none => .fault rt c .count

end Sys2Proof.Machine
end

