-- ==== Sys2Proof/Machine/Posted.lean ====
section
/-! DEFINITION. Posted events (chapter 7): RAISE. -/

namespace Sys2Proof.Machine

/-- The exclusion set of a new POSTED record: the raiser if the source excludes itself, cleared where that
covers the route set (R33, R112). -/
def raiseExclusion (h : HostId) (d : SourceDescriptor) : HostSet :=
  if d.selfExclude then enlarge d.terms.route 0 (hostBit h) else 0

/-- RAISE from a PRESENT host (R111 conditions 2 to 5, R112). -/
def raiseRequest (h : HostId) (source : Byte) (payload : BitVec 16) (notify : Byte) (s : State) :
    State × Answer :=
  match parsePosted source, parseNotify notify with
  | some n, some y =>
    if (s.posted n).desc.enabled then
      match s.liveTags (.posted n) with
      | t :: _ => (s, { code := .occupied, data := [byte t.val, s.seqByte t] })
      | [] =>
        match s.freeTag with
        | some t =>
          let s := createRecord t (.posted n) 0 (some { payload := payload, raiser := h, notify := y })
            (raiseExclusion h (s.posted n).desc) s
          (s, okWith [byte t.val, s.seqByte t])
        | none => (s, bare .noRecord)
    else (s, bare .disabled)
  | _, _ => (s, bare .badArg)

end Sys2Proof.Machine
end

