-- ==== Sys2Proof/Machine/Sessions.lean ====
section
/-! DEFINITION. Configuration sessions (chapter 10): the session, staging, the commit checks and the
application of each kind of entry. -/

namespace Sys2Proof.Machine

/-! ### The session -/

/-- The session timer started for the committed session timeout (R153, R154). -/
def State.sessionTimer (s : State) : Timer := Timer.start s.policy.sessionTimeout.toNat

/-- The session check of R153 for every session request but OPEN_SESSION, and the restart of the timer:
the request of the holder goes on with the restarted session, any other is answered NO_SESSION. -/
def withSession (h : HostId) (s : State) (act : Session → State → State × Answer) : State × Answer :=
  match s.session with
  | some x =>
    if x.holder = h then
      let x := { x with timer := s.sessionTimer }
      act x { s with session := some x }
    else (s, bare .noSession)
  | none => (s, bare .noSession)

/-- OPEN_SESSION (R154). -/
def openSessionRequest (h : HostId) (s : State) : State × Answer :=
  match s.session with
  | none =>
    ({ s with session := some { holder := h, timer := s.sessionTimer, staging := [] } },
      okWith (bytes16 s.policy.sessionTimeout ++ [0]))
  | some x =>
    if x.holder = h then
      ({ s with session := some { x with timer := s.sessionTimer } },
        okWith (bytes16 s.policy.sessionTimeout ++ [byte x.staging.length]))
    else (s, { code := .held, data := [byte x.holder.val] })

/-- Two staged entries have the same target (R158). -/
def StagedEntry.sameTarget : StagedEntry → StagedEntry → Bool
  | .line a _, .line b _ => decide (a = b)
  | .posted a _, .posted b _ => decide (a = b)
  | .group a _, .group b _ => decide (a = b)
  | .policy _, .policy _ => true
  | _, _ => false

/-- An entry placed in the staging list: in the place of the entry of its target, or at the tail; none where
the list is full (R158). -/
def stageInto (e : StagedEntry) (l : List StagedEntry) : Option (Nat × List StagedEntry) :=
  match l.findIdx? (fun f => f.sameTarget e) with
  | some i => some (i, l.set i e)
  | none => if l.length < Config.stagingDepth then some (l.length, l ++ [e]) else none

/-- The common part of the three STAGE requests, after their range checks (R153, R158). -/
def stageRequest (h : HostId) (entry : Option StagedEntry) (s : State) : State × Answer :=
  withSession h s fun x s =>
    match entry with
    | none => (s, bare .badArg)
    | some e =>
      match stageInto e x.staging with
      | some (i, l) =>
        ({ s with session := some { x with staging := l } }, okWith [byte i, byte l.length])
      | none => (s, bare .stagingFull)

/-- STAGE_SOURCE (R159). -/
def stageSourceRequest (h : HostId) (source : Byte) (d : Table Byte 5) (s : State) : State × Answer :=
  stageRequest h (parseStageSource source d) s

/-- STAGE_GROUP (R160). -/
def stageGroupRequest (h : HostId) (group : Byte) (d : Table Byte 4) (s : State) : State × Answer :=
  stageRequest h (parseStageGroup group d) s

/-- STAGE_POLICY (R160). -/
def stagePolicyRequest (h : HostId) (p : Table Byte 12) (s : State) : State × Answer :=
  stageRequest h (parseStagePolicy p) s

/-- DISCARD (R169). -/
def discardRequest (h : HostId) (s : State) : State × Answer :=
  withSession h s fun x s => ({ s with session := none }, okWith [byte x.staging.length])

/-! ### The commit checks (R163) -/

/-- Why an entry fails the commit check, coded 0, 1 and 2. -/
inductive ConfigFailure where
  | groupFull | postedGroup | liveRecords
  deriving DecidableEq, Repr

/-- The reason code of R190. -/
def ConfigFailure.code : ConfigFailure → Nat
  | .groupFull => 0
  | .postedGroup => 1
  | .liveRecords => 2

/-- The staged descriptor of a line source in a list, if it has one. -/
def stagedLine (n : LineId) : List StagedEntry → Option SourceDescriptor
  | [] => none
  | .line m d :: rest => if m = n then some d else stagedLine n rest
  | _ :: rest => stagedLine n rest

/-- The group field of a line source with every staged entry applied (R163). -/
def State.groupAfter (s : State) (l : List StagedEntry) (n : LineId) : Option GroupId :=
  match stagedLine n l with
  | some d => d.group
  | none => (s.line n).desc.group

/-- More than 8 line sources name the group with every staged entry applied (R163). -/
def State.overfull (s : State) (l : List StagedEntry) (g : GroupId) : Bool :=
  decide (Config.groupCapacity < lineIds.countP (fun n => decide (s.groupAfter l n = some g)))

/-- The group capacity check on an entry that changes a source's group field from `old` to `new`. -/
def State.movesToFull (s : State) (l : List StagedEntry) (old new : Option GroupId) : Bool :=
  match new with
  | some g => decide (old ≠ some g) && s.overfull l g
  | none => false

/-- The live-records check on a line source (R163). -/
def State.liveRecordsFail (s : State) (n : LineId) (old new : SourceDescriptor) : Bool :=
  decide (1 < (s.liveTags (.line n)).length) &&
    ((decide (old.clearPolicy = .onClaim) && decide (new.clearPolicy = .onComplete)) ||
      (!old.sense.isLevel && new.sense.isLevel))

/-- The first failing check of an entry, in the order of the table of R163. -/
def State.entryFailure (s : State) (l : List StagedEntry) : StagedEntry → Option ConfigFailure
  | .line n d =>
    if s.movesToFull l (s.line n).desc.group d.group then some .groupFull
    else if s.liveRecordsFail n (s.line n).desc d then some .liveRecords
    else none
  | .posted n d =>
    if s.movesToFull l (s.posted n).desc.group d.group then some .groupFull
    else if d.group.isSome then some .postedGroup
    else none
  | _ => none

/-- The lowest-numbered failing entry of a list with its reason (R163). -/
def State.firstFailure (s : State) (l : List StagedEntry) : Nat → List StagedEntry →
    Option (Nat × ConfigFailure)
  | _, [] => none
  | i, e :: rest =>
    match s.entryFailure l e with
    | some why => some (i, why)
    | none => s.firstFailure l (i + 1) rest

/-! ### The application of an entry (R165, R166) -/

/-- A source leaves a group's collect set; a set left empty clears the group's starved mark (R106, R108). -/
def leaveCollect (n : LineId) (group : Option GroupId) (s : State) : State :=
  match group with
  | some g =>
    let set := removeSource n (s.group g).collect
    s.setGroup g { s.group g with
      collect := set, starved := if set.isEmpty then false else (s.group g).starved }
  | none => s

/-- The reference level of a line re-taken from its filtered level, if the line is seeded (R19). -/
def retakeReference (n : LineId) (s : State) : State :=
  match (s.line n).filter with
  | some f => s.setLine n { s.line n with filter := some { f with reference := f.filtered } }
  | none => s

/-- The rows of R25 that a commit applies to a starved line source still enabled and not in a group (R165
step 6). An entry that takes a starved ON_CLAIM edge source with a CLAIMED record to a level sense, and so to
ON_COMPLETE as well, meets the words of two rows; the row of the level sense is applied alone, and Again stays as it
is (DESIGN CHOICE, log entry 26). -/
def commitStarved (n : LineId) (old new : SourceDescriptor) (s : State) : State :=
  if (s.line n).starved.isSome ∧ new.enabled ∧ new.group = none then
    if old.sense ≠ new.sense ∧ new.sense.isLevel then
      setLineStarved n
        (if s.stands n ∧ (s.liveTags (.line n)).isEmpty then some 1 else none) s
    else if old.clearPolicy = .onClaim ∧ new.clearPolicy = .onComplete ∧ ¬ new.sense.isLevel then
      match s.claimedTag (.line n) with
      | some t => setAgain t (setLineStarved n none s)
      | none => s
    else s
  else s

/-- The level and preferred-host steps of a descriptor entry (R165 steps 4 and 5, R166 steps 3 and 4). -/
def commitTerms (o : Origin) (old new : Terms) (s : State) : State :=
  let s := if old.level ≠ new.level then moveLevel o new.level s else s
  if old.preferred ≠ new.preferred then openOrigin o s else s

/-- Steps 2 and 3 of a Source Descriptor entry for a line source: disabling, and the group field (R165). -/
def commitMembership (n : LineId) (old new : SourceDescriptor) (s : State) : State :=
  let s :=
    if old.enabled ∧ ¬ new.enabled then
      leaveCollect n old.group (setLineStarved n none (withdraw (.line n) s))
    else s
  if old.group ≠ new.group then
    let s := leaveCollect n old.group s
    if new.group.isSome then setLineStarved n none s else s
  else s

/-- Step 7 of a Source Descriptor entry for a line source: the reference level is re-taken, and a
level-sensed source that stands is tested (R165, R19, R20). -/
def commitFiring (n : LineId) (old new : SourceDescriptor) (s : State) : State :=
  if new.enabled ∧ (¬ old.enabled ∨ old.sense ≠ new.sense ∨ old.group ≠ new.group) then
    levelTest n (retakeReference n s)
  else s

/-- A Source Descriptor entry for a line source (R165). -/
def applyLine (n : LineId) (new : SourceDescriptor) (s : State) : State :=
  let old := (s.line n).desc
  let s := s.setLine n { s.line n with desc := new }
  let s := commitMembership n old new s
  let s := commitTerms (.line n) old.terms new.terms s
  commitFiring n old new (commitStarved n old new s)

/-- A Source Descriptor entry for a posted source: steps 1, 2, 4 and 5 of R165 (R119). -/
def applyPosted (n : PostedId) (new : SourceDescriptor) (s : State) : State :=
  let old := (s.posted n).desc
  let s := s.setPosted n { s.posted n with desc := new }
  let s := if old.enabled ∧ ¬ new.enabled then withdraw (.posted n) s else s
  commitTerms (.posted n) old.terms new.terms s

/-- Step 2 of a Group Descriptor entry: disabling (R166). -/
def disableGroup (g : GroupId) (s : State) : State :=
  let s := withdraw (.group g) s
  s.setGroup g { s.group g with collect := [], starved := false }

/-- The list `l` disables the source `n`. -/
def disabledBy (l : List StagedEntry) (n : LineId) : Bool :=
  match stagedLine n l with
  | some d => !d.enabled
  | none => false

/-- A Group Descriptor entry (R166) of the list `l`. A member that the list disables does not fire at the enabling of
its group, wherever the two entries stand: where the group's entry stands first, that follows the last row of the table
of R167 against step 5 of R166 (DESIGN CHOICE, log entry 29). -/
def applyGroup (l : List StagedEntry) (g : GroupId) (new : GroupDescriptor) (s : State) : State :=
  let old := (s.group g).desc
  let s := s.setGroup g { s.group g with desc := new }
  let s := if old.enabled ∧ ¬ new.enabled then disableGroup g s else s
  let s := commitTerms (.group g) old.terms new.terms s
  if ¬ old.enabled ∧ new.enabled then fireMembers g ((s.membersOf g).filter (fun n => !disabledBy l n)) s else s

/-- One entry of the list `l` applied with all of its consequences (R164 step 1). -/
def applyEntry (l : List StagedEntry) (s : State) : StagedEntry → State
  | .line n d => applyLine n d s
  | .posted n d => applyPosted n d s
  | .group g d => applyGroup l g d s
  | .policy p => { s with policy := p }

/-- The application of a whole staging list by host `h` (R164). -/
def applyCommit (h : HostId) (l : List StagedEntry) (s : State) : State :=
  let s := l.foldl (applyEntry l) s
  let s := { s with session := none }
  placeAll (fun g => decide (g ≠ h) && decide ((s.host g).presence = .present))
    (.configCommitted h l.length) s

/-- COMMIT (R163, R164). -/
def commitRequest (h : HostId) (s : State) : State × Answer :=
  withSession h s fun x s =>
    match s.firstFailure x.staging 0 x.staging with
    | some (i, why) => (s, { code := .badConfig, data := [byte i, byte why.code] })
    | none => (applyCommit h x.staging s, okWith [byte x.staging.length])

/-! ### Expiry -/

/-- The expiry of the session timer (R155). -/
def expireSession (x : Session) (s : State) : State :=
  place x.holder (.sessionExpired x.staging.length) { s with session := none }

end Sys2Proof.Machine
end

