-- ==== Sys2Proof/Machine/Ports.lean ====
section
/-! DEFINITION. Requests carried out (R177), and the host ports: transactions, the judging of frames, the
reply slot (chapter 11). -/

namespace Sys2Proof.Machine

/-! ### A request carried out -/

/-- After a request that is carried out, ATTN settles; a request answered otherwise than OK changes no input
of the Offer Logic (R9, R67, R180). -/
def settleAnswered (r : State × Answer) : State × Answer :=
  if r.2.code = .ok then (settle r.1, r.2) else r

/-- The effect and answer of a request that has passed the presence check, by the rule that owns it. ATTN
settles after the requests that may change an input of the Offer Logic (R9, R67). -/
def performRequest (h : HostId) (req : Request) (s : State) : State × Answer :=
  match req with
  | .join => settleAnswered (joinRequest h s)
  | .leave manner => settleAnswered (leaveRequest h manner s)
  | .setFloor floor => settleAnswered (setFloorRequest h floor s)
  | .peek => peekRequest h s
  | .claim => settleAnswered (claimRequest h s)
  | .extend tag epoch => extendRequest h tag epoch s
  | .complete tag epoch => settleAnswered (completeRequest h tag epoch s)
  | .handback tag epoch => settleAnswered (handbackRequest h tag epoch s)
  | .raise source payload notify => settleAnswered (raiseRequest h source payload notify s)
  | .takeNotice => settleAnswered (takeNoticeRequest h s)
  | .readRecord tag => readRecordRequest tag s
  | .readSource source => readSourceRequest source s
  | .readGroup group => readGroupRequest group s
  | .readPolicy => readPolicyRequest s
  | .openSession => openSessionRequest h s
  | .stageSource source d => stageSourceRequest h source d s
  | .stageGroup group d => stageGroupRequest h group d s
  | .stagePolicy p => stagePolicyRequest h p s
  | .commit => settleAnswered (commitRequest h s)
  | .discard => discardRequest h s

/-- A request of host `h` at its blocks: the presence check, then the rule that owns it (R122, R177). A
request refused at the presence check changes no state. -/
def carryOut (h : HostId) (req : Request) (s : State) : State × Answer :=
  match refusal (admissionOf req) (s.host h).presence with
  | some code => (s, bare code)
  | none => performRequest h req s

/-- The port's work replaced, its reply slot empty: a frame has made the port busy (R171, R176). -/
def setWork (h : HostId) (w : PortWork) (s : State) : State :=
  s.setPort h { s.port h with work := w, rx := [], slot := none }

/-- A taken request is carried out, and its answer coded into the reply frame that waits for its placement
(R177, R178). -/
def answerRequest (h : HostId) (rt : RequestTag) (req : Request) (s : State) : State :=
  let (s, a) := carryOut h req s
  setWork h (.answered (replyFrame rt (requestCode req) a)) s

/-! ### Frames at a port -/

/-- A port's overrun flag set, a frame having been discarded (R176 condition 1). -/
def overrunPort (h : HostId) (s : State) : State := s.setPort h { s.port h with overrun := true }

/-- The reply to a refused frame (R176): the reason alone. -/
def errorFrame (rt : RequestTag) (command : Byte) (why : FrameFault) : List Byte :=
  replyFrame rt command { code := .frameError, data := [byte why.code] }

/-- The work that the outcome of a frame's checks gives the port; a request is taken at the given turn (R176, R177). -/
def judgedWork (turn : Nat) (frame : List Byte) : PortWork :=
  match checkFrame frame with
  | .fault rt command why => .answered (errorFrame rt command why)
  | .passed rt req => .taken rt req turn

/-! ### The order of taking (R63, section 0.6; log entry 27) -/

/-- The turn of the request that is taken and waits at a port. -/
def State.turnAt (s : State) (h : HostId) : Option Nat :=
  match (s.port h).work with
  | .taken _ _ turn => some turn
  | _ => none

/-- The ports whose taken requests wait with a turn below `bound`. -/
def State.waitingBefore (s : State) (bound : Nat) : List HostId :=
  hostIds.filter (fun g => (s.turnAt g).any (fun k => decide (k < bound)))

/-- A turn after those of all requests that wait. -/
def State.nextTurn (s : State) : Nat :=
  hostIds.foldl (fun k g => match s.turnAt g with
    | some j => max k (j + 1)
    | none => k) 0

/-- The first of the requests that wait with a turn below `bound`: one, or several of the same turn. -/
def State.firstBefore (s : State) (bound : Nat) : List HostId :=
  (s.waitingBefore bound).filter (fun g =>
    (s.waitingBefore bound).all (fun f => decide ((s.turnAt g).getD 0 ≤ (s.turnAt f).getD 0)))

/-- The request that waits at port `g` is carried out ahead of its row. -/
def carryOutAhead (g : HostId) (s : State) : State :=
  match (s.port g).work with
  | .taken rt req _ =>
    let (s, a) := carryOut g req s
    setWork g (.carried rt req (replyFrame rt (requestCode req) a)) s
  | _ => s

/-- The requests that wait with a turn below `bound` are carried out in the order in which they were taken; among those
of the same turn, which the part gives no order, each next one is a free choice. The first argument bounds their
number. -/
def carryOutBefore : Nat → Nat → State → State
  | 0, _, s => s
  | k + 1, bound, s =>
    match s.firstBefore bound with
    | [] => s
    | [g] => carryOutBefore k bound (carryOutAhead g s)
    | g :: g' :: gs =>
      let i := Config.eventOrder s.choices % (gs.length + 2)
      carryOutBefore k bound
        (carryOutAhead ((g :: g' :: gs).getD i g) { s with choices := s.choices + 1 })

/-- Every request taken before the turn `bound` has taken effect. -/
def catchUp (bound : Nat) (s : State) : State := carryOutBefore hostIds.length bound s

/-- A frame at an idle port: judged, or kept unjudged in the receive buffer while REFCLK is stopped (R2,
R176). Either way the port becomes busy and a reply still held in the slot is discarded. -/
def takeFrame (h : HostId) (frame : List Byte) (s : State) : State :=
  if s.refclk then setWork h (judgedWork s.nextTurn frame) s
  else s.setPort h { s.port h with work := .unjudged, rx := frame, slot := none }

/-- A frame at the end of its transaction (R176). -/
def receiveFrame (h : HostId) (frame : List Byte) (s : State) : State :=
  match (s.port h).work with
  | .idle => takeFrame h frame s
  | _ => overrunPort h s

/-- The frame that waits at a port is judged, REFCLK running again; a request is taken at the given turn (R2). -/
def judgeWaiting (turn : Nat) (s : State) (h : HostId) : State :=
  match (s.port h).work with
  | .unjudged => setWork h (judgedWork turn (s.port h).rx) s
  | _ => s

/-- A request row of the table at the port of its host (log entry 6): the request in flight there is carried
out; an idle port takes the request and carries it out, or keeps its frame while REFCLK is stopped (R2); at
a port that is busy with anything else the request is discarded as an overrun (R176). While chip reset is
asserted no request is taken (R6). Requests that other ports took earlier are carried out before it (R63, section 0.6),
and their own rows then find them carried out (log entry 27). -/
def serve (h : HostId) (rt : RequestTag) (req : Request) (s : State) : State :=
  if s.inReset then s
  else
    match (s.port h).work with
    | .idle =>
      if s.refclk then answerRequest h rt req (catchUp s.nextTurn s)
      else takeFrame h (requestFrame rt req) s
    | .taken rt' req' turn =>
      if rt' = rt ∧ req' = req then answerRequest h rt req (catchUp turn s) else overrunPort h s
    | .carried rt' req' frame =>
      if rt' = rt ∧ req' = req then s.setPort h { s.port h with work := .answered frame }
      else overrunPort h s
    | _ => overrunPort h s

/-! ### Transactions -/

/-- The start of a transaction: the status byte and the reply slot are sampled (R172, R173). -/
def beginTransaction (h : HostId) (s : State) : State :=
  s.setPort h { s.port h with
    csLow := true, recognising := true
    transaction := some { status := s.statusByte h, reply := (s.port h).slot, placed := false } }

/-- The bits MISO carries in a transaction at its first `edges` rising edges of SCK: those of the status byte
and of the reply held when the transaction began, and then the ones of the 0xFF filler (R8, R172). -/
def misoBits (x : Transaction) (edges : Nat) : List Bool :=
  ((x.status :: x.reply.getD []).flatMap bitsOf ++ List.replicate edges true).take edges

/-- The MISO pin of a port as it stands: driven while a transaction is in progress, from its start on at the
most significant bit of the status byte, and high-impedance (`none`) at any other time, chip reset and the time
before a transaction is recognised included (R6, R7, R8; log entry 25). -/
def Port.misoPin (p : Port) : Option Bool := p.transaction.map (fun x => x.status.msb)

/-- Steps 1 and 2 of the end of a transaction with `edges` rising edges of SCK: a reply of which a whole byte
was clocked leaves the slot, and an overrun flag shown in a whole status byte is cleared (R172, R173, R175). A reply
placed since the transaction began was not shifted out in it, and the slot keeps it (R172). -/
def Port.shifted (p : Port) (x : Transaction) (edges : Nat) : Port :=
  { p with
    csLow := false, transaction := none, miso := misoBits x edges
    slot := if x.reply.isSome ∧ x.placed = false ∧ 16 ≤ edges then none else p.slot
    overrun := if 8 ≤ edges ∧ showsOverrun x.status then false else p.overrun }

/-- The receive buffer after a transaction that carries no request: cleared, but for a frame that still waits
to be judged (R2, R174; log entry 9). -/
def Port.cleared (p : Port) : Port :=
  match p.work with
  | .unjudged => p
  | _ => { p with rx := [] }

/-- The end of the transaction `x` that carried the bits `mosi` (R8, R175). -/
def endTransaction (h : HostId) (x : Transaction) (mosi : List Bool) (s : State) : State :=
  let s := s.setPort h ((s.port h).shifted x mosi.length)
  let bytes := wholeBytes mosi
  if carriesFrame bytes then receiveFrame h (keptFrame bytes) s
  else s.setPort h (s.port h).cleared

/-- The reply is placed in the slot and the port stops being busy (R171, R177). -/
def placeReply (h : HostId) (frame : List Byte) (s : State) : State :=
  s.setPort h { s.port h with
    work := .idle, slot := some frame
    transaction := (s.port h).transaction.map (fun x => { x with placed := true }) }

/-- REPLY_PLACEMENT at a port: by the time the reply is ready the request has taken effect, so a taken
request not yet carried out is carried out first (R9, R177; log entry 7), and before it the requests that other ports
took earlier (R63, section 0.6). -/
def placement (h : HostId) (s : State) : State :=
  match (s.port h).work with
  | .answered frame => placeReply h frame s
  | .carried _ _ frame => placeReply h frame s
  | .taken rt req turn =>
    let (s, a) := carryOut h req (catchUp turn s)
    placeReply h (replyFrame rt (requestCode req) a) s
  | _ => s

/-! ### The meanings of the port rows -/

/-- TRANSACTION_START: a falling edge of chip select. It begins a transaction unless chip reset is asserted
(R6) or the port does not recognise transactions yet (R7); a pin already low gives no edge. -/
def execTransactionStart (h : HostId) (early : Bool) (s : State) : Host.Outcome State Fault Refusal :=
  let p := s.port h
  if p.csLow then .next s
  else if s.inReset ∨ (p.recognising = false ∧ early) then .next (s.setPort h { p with csLow := true })
  else .next (beginTransaction h s)

/-- TRANSACTION_END: a rising edge of chip select (R8, R175); a pin already high gives no edge. -/
def execTransactionEnd (h : HostId) (mosi : List Bool) (s : State) : Host.Outcome State Fault Refusal :=
  let p := s.port h
  if p.csLow then
    match p.transaction with
    | some x => .next (endTransaction h x mosi s)
    | none => .next (s.setPort h { p with csLow := false })
  else .next s

/-- REPLY_PLACEMENT (R177). While chip reset is asserted the ports are empty and nothing is placed (R6). -/
def execReplyPlacement (h : HostId) (s : State) : Host.Outcome State Fault Refusal :=
  if s.inReset then .next s else .next (placement h s)

end Sys2Proof.Machine
end

