-- ==== Sys2Proof/Machine/Requests.lean ====
section
/-! DEFINITION. The meanings of the twenty-one request rows: each is its request served at the port of its
host (R177); what the request does is stated at its own rule. -/

namespace Sys2Proof.Machine

/-- JOIN (R124, R125, R126). -/
def execJoin (h : HostId) (rt : RequestTag) (s : State) : Host.Outcome State Fault Refusal :=
  .next (serve h rt .join s)

/-- LEAVE with manner GRACEFUL, coded 0 (R127, R131). -/
def execLeaveGraceful (h : HostId) (rt : RequestTag) (s : State) : Host.Outcome State Fault Refusal :=
  .next (serve h rt (.leave 0) s)

/-- LEAVE with manner IMMEDIATE, coded 1 (R130, R131). -/
def execLeaveImmediate (h : HostId) (rt : RequestTag) (s : State) : Host.Outcome State Fault Refusal :=
  .next (serve h rt (.leave 1) s)

/-- SET_FLOOR (R134). -/
def execSetFloor (h : HostId) (rt : RequestTag) (floor : Byte) (s : State) :
    Host.Outcome State Fault Refusal :=
  .next (serve h rt (.setFloor floor) s)

/-- PEEK (R182). -/
def execPeek (h : HostId) (rt : RequestTag) (s : State) : Host.Outcome State Fault Refusal :=
  .next (serve h rt .peek s)

/-- CLAIM (R76, R77, R79). -/
def execClaim (h : HostId) (rt : RequestTag) (s : State) : Host.Outcome State Fault Refusal :=
  .next (serve h rt .claim s)

/-- EXTEND (R82, R83, R84). -/
def execExtend (h : HostId) (rt : RequestTag) (tag epoch : Byte) (s : State) :
    Host.Outcome State Fault Refusal :=
  .next (serve h rt (.extend tag epoch) s)

/-- COMPLETE (R85, R86). -/
def execComplete (h : HostId) (rt : RequestTag) (tag epoch : Byte) (s : State) :
    Host.Outcome State Fault Refusal :=
  .next (serve h rt (.complete tag epoch) s)

/-- HANDBACK (R88, R89). -/
def execHandback (h : HostId) (rt : RequestTag) (tag epoch : Byte) (s : State) :
    Host.Outcome State Fault Refusal :=
  .next (serve h rt (.handback tag epoch) s)

/-- RAISE (R111, R112). -/
def execRaise (h : HostId) (rt : RequestTag) (source : Byte) (payload : BitVec 16) (notify : Byte)
    (s : State) : Host.Outcome State Fault Refusal :=
  .next (serve h rt (.raise source payload notify) s)

/-- TAKE_NOTICE (R146, R147). -/
def execTakeNotice (h : HostId) (rt : RequestTag) (s : State) : Host.Outcome State Fault Refusal :=
  .next (serve h rt .takeNotice s)

/-- READ_RECORD (R186). -/
def execReadRecord (h : HostId) (rt : RequestTag) (tag : Byte) (s : State) :
    Host.Outcome State Fault Refusal :=
  .next (serve h rt (.readRecord tag) s)

/-- READ_SOURCE (R26, R187). -/
def execReadSource (h : HostId) (rt : RequestTag) (source : Byte) (s : State) :
    Host.Outcome State Fault Refusal :=
  .next (serve h rt (.readSource source) s)

/-- READ_GROUP (R109, R187). -/
def execReadGroup (h : HostId) (rt : RequestTag) (group : Byte) (s : State) :
    Host.Outcome State Fault Refusal :=
  .next (serve h rt (.readGroup group) s)

/-- READ_POLICY (R162, R187). -/
def execReadPolicy (h : HostId) (rt : RequestTag) (s : State) : Host.Outcome State Fault Refusal :=
  .next (serve h rt .readPolicy s)

/-- OPEN_SESSION (R153, R154). -/
def execOpenSession (h : HostId) (rt : RequestTag) (s : State) : Host.Outcome State Fault Refusal :=
  .next (serve h rt .openSession s)

/-- STAGE_SOURCE (R153, R158, R159). -/
def execStageSource (h : HostId) (rt : RequestTag) (source : Byte) (desc : Table Byte 5) (s : State) :
    Host.Outcome State Fault Refusal :=
  .next (serve h rt (.stageSource source desc) s)

/-- STAGE_GROUP (R153, R158, R160). -/
def execStageGroup (h : HostId) (rt : RequestTag) (group : Byte) (desc : Table Byte 4) (s : State) :
    Host.Outcome State Fault Refusal :=
  .next (serve h rt (.stageGroup group desc) s)

/-- STAGE_POLICY (R153, R158, R160). -/
def execStagePolicy (h : HostId) (rt : RequestTag) (policy : Table Byte 12) (s : State) :
    Host.Outcome State Fault Refusal :=
  .next (serve h rt (.stagePolicy policy) s)

/-- COMMIT (R163, R164). -/
def execCommit (h : HostId) (rt : RequestTag) (s : State) : Host.Outcome State Fault Refusal :=
  .next (serve h rt .commit s)

/-- DISCARD (R169). -/
def execDiscard (h : HostId) (rt : RequestTag) (s : State) : Host.Outcome State Fault Refusal :=
  .next (serve h rt .discard s)

end Sys2Proof.Machine
end

