-- ==== Sys2Proof/Machine/Timebase.lean ====
section
/-! DEFINITION. Chip reset, REFCLK and the tick boundary (chapter 1), the line filters and line changes
(chapter 2), and the expiries that a boundary brings. -/

namespace Sys2Proof.Machine

/-! ### Line changes and expiries as events -/

/-- The Source Table judges a line change of an enabled source to the level `level` (R16, R18, R25). -/
def judgeLineChange (n : LineId) (reference level : Bool) (s : State) : State :=
  let d := (s.line n).desc
  if d.sense.isLevel then
    if level = d.sense.active then levelTest n s else setLineStarved n none s
  else if reference ≠ level ∧ d.sense.matchesEdge level then fire n s
  else s

/-- The line change of a completed filter `f` is delivered (R12): the filtered level takes the candidate
level, and the Source Table judges the change if the source is enabled; the reference level of a disabled
source stays (R16). -/
def deliverLineChange (n : LineId) (f : LineFilter) (s : State) : State :=
  let x := s.line n
  let f' : LineFilter :=
    { filtered := f.candidate, candidate := f.candidate, stable := 0, completes := false
      reference := if x.desc.enabled then f.candidate else f.reference }
  let s := s.setLine n { x with filter := some f' }
  if x.desc.enabled then judgeLineChange n f.reference f.candidate s else s

/-- The line change of line `n`, if the last boundary's sample completed a change of it. -/
def lineEvent (n : LineId) (s : State) : State :=
  match (s.line n).filter with
  | some f => if f.completes then settle (deliverLineChange n f s) else s
  | none => s

/-- The window expiry of record `t`, if it is PENDING_EXCL and its window has reached its expiry (R56). -/
def windowEvent (t : Tag) (s : State) : State :=
  match s.occ t, (s.record t).timer with
  | some c, .due => if c.phase = .pendingExcl then settle (openRecord t s) else s
  | _, _ => s

/-- The lease expiry of record `t`, if it is CLAIMED and its lease has reached its expiry (R90). -/
def leaseEvent (t : Tag) (s : State) : State :=
  match s.occ t, (s.record t).timer with
  | some c, .due =>
    match c.phase with
    | .claimed h _ _ => settle (expireLease t h c s)
    | _ => s
  | _, _ => s

/-- The session timer's expiry, if it has reached it (R155). -/
def sessionEvent (s : State) : State :=
  match s.session with
  | some x => if x.timer = .due then settle (expireSession x s) else s
  | none => s

/-! ### Events that the part gives no order among -/

/-- An event that a tick boundary has brought and that is not delivered yet, or the test of a source at
seeding. -/
inductive DueEvent where
  | line (n : LineId)
  | window (t : Tag)
  | lease (t : Tag)
  | session
  | seedTest (n : LineId)
  deriving DecidableEq, Repr

/-- One event taken. -/
def deliver (e : DueEvent) (s : State) : State :=
  match e with
  | .line n => lineEvent n s
  | .window t => windowEvent t s
  | .lease t => leaseEvent t s
  | .session => sessionEvent s
  | .seedTest n => settle (levelTest n s)

/-- A list of events taken one after another in an order the part does not give: each next one is a free
choice (R4; log entry 4). The first argument bounds the number of events. -/
def deliverFreely : Nat → List DueEvent → State → State
  | 0, _, s => s
  | _ + 1, [], s => s
  | _ + 1, [e], s => deliver e s
  | k + 1, e :: e' :: es, s =>
    let i := Config.eventOrder s.choices % (es.length + 2)
    deliverFreely k ((e :: e' :: es).eraseIdx i)
      (deliver ((e :: e' :: es).getD i e) { s with choices := s.choices + 1 })

/-- Events in a free order, all of them. -/
def deliverAll (es : List DueEvent) (s : State) : State := deliverFreely es.length es s

/-- The record's timer has reached its expiry and the record is in the given kind of phase. -/
def State.dueRecord (s : State) (claimed : Bool) (t : Tag) : Bool :=
  match s.occ t with
  | some c => c.phase.isClaimed == claimed && decide ((s.record t).timer = .due)
  | none => false

/-- The events of the last boundary that no command has delivered yet. -/
def State.outstanding (s : State) : List DueEvent :=
  (lineIds.filter (fun n => (s.line n).filter.any (fun f => f.completes))).map .line ++
  (tags.filter (s.dueRecord false)).map .window ++
  (tags.filter (s.dueRecord true)).map .lease ++
  (if s.session.any (fun x => decide (x.timer = .due)) then [.session] else [])

/-! ### The tick boundary -/

/-- Every running timer counts (R3). -/
def countTimers (s : State) : State :=
  { s with
    records := Table.mapAll (fun r => { r with timer := r.timer.tick }) s.records
    session := s.session.map (fun x => { x with timer := x.timer.tick }) }

/-- A line's filter at a sample (R12): the change it begins, drops or carries on, and whether it completes.
`d` is the debounce value as committed now (R14). -/
def LineFilter.sample (f : LineFilter) (d : Nat) (level : Bool) : LineFilter :=
  let moved : LineFilter :=
    if level = f.filtered then { f with candidate := f.filtered, stable := 0 }
    else if f.candidate = f.filtered then { f with candidate := level, stable := 0 }
    else { f with stable := f.stable + 1 }
  { moved with completes := decide (moved.candidate ≠ moved.filtered ∧ d ≤ moved.stable) }

/-- The filter of a line seeded by its first sample (R13). -/
def LineFilter.seeded (level : Bool) : LineFilter :=
  { filtered := level, candidate := level, stable := 0, reference := level, completes := false }

/-- A line's sample (R11, R12, R13). -/
def LineSource.sample (x : LineSource) (level : Bool) : LineSource :=
  match x.filter with
  | some f => { x with filter := some (f.sample x.desc.debounce.val level) }
  | none => { x with filter := some (LineFilter.seeded level) }

/-- Every line is sampled, each from its bit of `levels` (R11). -/
def sampleLines (levels : BitVec 48) (s : State) : State :=
  { s with lineSources := Table.mapIdx (fun n x => x.sample (levels.getLsbD n.val)) s.lineSources }

/-- The enabled, level-sensed sources that stand, among lines just seeded (R13, R18). -/
def State.seedTests (s : State) (unseeded : List LineId) : List DueEvent :=
  (unseeded.filter (fun n => (s.line n).desc.enabled && s.stands n)).map .seedTest

/-- A tick boundary (R1, R3, R11): what the last boundary still owes is delivered first (log entry 4); then
the divider passes to 0, the timers count, the lines are sampled, and sources seeded standing fire. -/
def boundary (levels : BitVec 48) (s : State) : State :=
  let s := deliverAll s.outstanding s
  let unseeded := lineIds.filter (fun n => (s.line n).filter.isNone)
  let s := sampleLines levels (countTimers { s with divider := 0 })
  deliverAll (s.seedTests unseeded) s

/-- One rising edge of REFCLK (R1): the divider advances by one, and the edge that takes it from 39 to 0 is
the tick boundary, which samples the lines at the levels their pins stand at (log entry 2). While REFCLK is stopped
or chip reset is asserted there is no edge that counts (R2, R6). -/
def refclkEdge (s : State) : State :=
  if s.clocked then
    if s.divider < Config.dividerTop then { s with divider := s.divider + 1 } else boundary s.rawLevels s
  else s

/-- Several rising edges of REFCLK, one after another. -/
def refclkEdges : Nat → State → State
  | 0, s => s
  | k + 1, s => refclkEdges k (refclkEdge s)

/-! ### Chip reset -/

/-- Every block at its chip reset value (R6, R7). The pins REFCLK, chip select and LINE, the conditions that
hold chip reset, and the waiting commands are outside the blocks and are kept. -/
def resetBlocks (s : State) : State :=
  { State.reset with
    refclk := s.refclk, rstnHold := s.rstnHold, powerHold := s.powerHold
    rawLevels := s.rawLevels
    ports := Table.mapAll (fun p => Port.resetWith p.csLow) s.ports
    choices := s.choices, pending := s.pending }

/-! ### The meanings of the rows -/

/-- CHIP_RESET (R5, R6): asserted by RSTn low for the filter time or by VDD low; a shorter pulse of RSTn has
no effect. -/
def execChipReset (cause : ResetCause) (s : State) : Host.Outcome State Fault Refusal :=
  match cause with
  | .rstnLow => .next (resetBlocks { s with rstnHold := true })
  | .vddLow => .next (resetBlocks { s with powerHold := true })
  | .rstnPulse => .next s

/-- RELEASE (R5, R7): one holding condition ends; chip reset is released when none is left, and every block
then holds its chip reset value. Without chip reset asserted there is nothing to release. -/
def execRelease (ended : ResetHold) (s : State) : Host.Outcome State Fault Refusal :=
  if s.inReset then
    match ended with
    | .rstn => .next (resetBlocks { s with rstnHold := false })
    | .power => .next (resetBlocks { s with powerHold := false })
  else .next s

/-- REFCLK_STOP (R2): the divider and the timers keep their values, and frames wait unjudged. -/
def execRefclkStop (s : State) : Host.Outcome State Fault Refusal := .next { s with refclk := false }

/-- REFCLK_RESUME (R2): the divider and the timers go on from their held counts, and the frames that waited
are judged. -/
def execRefclkResume (s : State) : Host.Outcome State Fault Refusal :=
  .next (hostIds.foldl (judgeWaiting s.nextTurn) { s with refclk := true })

/-- TICK_BOUNDARY (R1, R3, R11): the lines stand at `levels`, and the rising edges of REFCLK that the tick
still wants follow, up to and including the one that takes the divider from 39 to 0 (log entry 2). No boundary
occurs while REFCLK is stopped or chip reset is asserted. -/
def execTickBoundary (levels : BitVec 48) (s : State) : Host.Outcome State Fault Refusal :=
  if s.clocked then
    .next (refclkEdges (Config.dividerTop - s.divider + 1) { s with rawLevels := levels })
  else .next s

/-- LINE_CHANGE (R12, R16): none arises while REFCLK is stopped or chip reset is asserted. -/
def execLineChange (n : LineId) (s : State) : Host.Outcome State Fault Refusal :=
  if s.clocked then .next (lineEvent n s) else .next s

/-- WINDOW_EXPIRY (R56): no timer expires while REFCLK is stopped or chip reset is asserted. -/
def execWindowExpiry (t : Tag) (s : State) : Host.Outcome State Fault Refusal :=
  if s.clocked then .next (windowEvent t s) else .next s

/-- LEASE_EXPIRY (R90): no timer expires while REFCLK is stopped or chip reset is asserted. -/
def execLeaseExpiry (t : Tag) (s : State) : Host.Outcome State Fault Refusal :=
  if s.clocked then .next (leaseEvent t s) else .next s

/-- SESSION_TIMER_EXPIRY (R155): no timer expires while REFCLK is stopped or chip reset is asserted. -/
def execSessionTimerExpiry (s : State) : Host.Outcome State Fault Refusal :=
  if s.clocked then .next (sessionEvent s) else .next s

end Sys2Proof.Machine
end

