-- ==== Sys2Proof/Machine/Dispatch.lean ====
section
/-! DEFINITION. The meaning of each command, one arm per row of spec/opcode_table.json. -/

namespace Sys2Proof.Machine

def exec (i : Instr) (s : State) : Host.Outcome State Fault Refusal :=
  match i with
  | .chipReset cause => Sys2Proof.Machine.execChipReset cause s
  | .release ended => Sys2Proof.Machine.execRelease ended s
  | .refclkResume => Sys2Proof.Machine.execRefclkResume s
  | .tickBoundary levels => Sys2Proof.Machine.execTickBoundary levels s
  | .lineChange n => Sys2Proof.Machine.execLineChange n s
  | .windowExpiry t => Sys2Proof.Machine.execWindowExpiry t s
  | .leaseExpiry t => Sys2Proof.Machine.execLeaseExpiry t s
  | .sessionTimerExpiry => Sys2Proof.Machine.execSessionTimerExpiry s
  | .transactionStart h early => Sys2Proof.Machine.execTransactionStart h early s
  | .transactionEnd h mosi => Sys2Proof.Machine.execTransactionEnd h mosi s
  | .replyPlacement h => Sys2Proof.Machine.execReplyPlacement h s
  | .join h rt => Sys2Proof.Machine.execJoin h rt s
  | .leaveGraceful h rt => Sys2Proof.Machine.execLeaveGraceful h rt s
  | .leaveImmediate h rt => Sys2Proof.Machine.execLeaveImmediate h rt s
  | .setFloor h rt floor => Sys2Proof.Machine.execSetFloor h rt floor s
  | .peek h rt => Sys2Proof.Machine.execPeek h rt s
  | .claim h rt => Sys2Proof.Machine.execClaim h rt s
  | .extend h rt tag epoch => Sys2Proof.Machine.execExtend h rt tag epoch s
  | .complete h rt tag epoch => Sys2Proof.Machine.execComplete h rt tag epoch s
  | .handback h rt tag epoch => Sys2Proof.Machine.execHandback h rt tag epoch s
  | .raise h rt source payload notify => Sys2Proof.Machine.execRaise h rt source payload notify s
  | .takeNotice h rt => Sys2Proof.Machine.execTakeNotice h rt s
  | .readRecord h rt tag => Sys2Proof.Machine.execReadRecord h rt tag s
  | .readSource h rt source => Sys2Proof.Machine.execReadSource h rt source s
  | .readGroup h rt group => Sys2Proof.Machine.execReadGroup h rt group s
  | .readPolicy h rt => Sys2Proof.Machine.execReadPolicy h rt s
  | .openSession h rt => Sys2Proof.Machine.execOpenSession h rt s
  | .stageSource h rt source desc => Sys2Proof.Machine.execStageSource h rt source desc s
  | .stageGroup h rt group desc => Sys2Proof.Machine.execStageGroup h rt group desc s
  | .stagePolicy h rt policy => Sys2Proof.Machine.execStagePolicy h rt policy s
  | .commit h rt => Sys2Proof.Machine.execCommit h rt s
  | .discard h rt => Sys2Proof.Machine.execDiscard h rt s
  | .refclkStop => Sys2Proof.Machine.execRefclkStop s

end Sys2Proof.Machine
end

