-- ==== Sys2Proof/WellFormed.lean ====
section
/-! DEFINITION. Well-formed commands: every argument lies within its coding and range (section 11.8). A command
that is not well formed runs too: the part answers it BAD_ARG, or STALE for a tag byte above 31 (R75). -/

namespace Sys2Proof

open Sys2Proof.Machine

/-- The tag byte of a claim token names a record (R75). -/
def tokenTagFits (tag : Byte) : Bool := (parseTag tag).isSome

/-- The arguments of a command lie within their codings and ranges. -/
def Instr.wellFormed : Instr → Bool
  | .chipReset _ | .release _ | .refclkResume | .tickBoundary _ | .lineChange _ | .windowExpiry _
  | .leaseExpiry _ | .sessionTimerExpiry | .transactionStart _ _ | .transactionEnd _ _
  | .replyPlacement _ | .join _ _ | .leaveGraceful _ _ | .leaveImmediate _ _ | .peek _ _ | .claim _ _
  | .takeNotice _ _ | .readPolicy _ _ | .openSession _ _ | .commit _ _ | .discard _ _ | .refclkStop => true
  | .setFloor _ _ floor => (parseFloor floor).isSome
  | .extend _ _ tag _ => tokenTagFits tag
  | .complete _ _ tag _ => tokenTagFits tag
  | .handback _ _ tag _ => tokenTagFits tag
  | .raise _ _ source _ notify => (parsePosted source).isSome && (parseNotify notify).isSome
  | .readRecord _ _ tag => (parseTag tag).isSome
  | .readSource _ _ source => (parseSource source).isSome
  | .readGroup _ _ group => (parseGroup group).isSome
  | .stageSource _ _ source desc => (parseStageSource source desc).isSome
  | .stageGroup _ _ group desc => (parseStageGroup group desc).isSome
  | .stagePolicy _ _ policy => (parseStagePolicy policy).isSome

end Sys2Proof
end

