-- ==== Sys2Proof/Safety.lean ====
section
/-! DEFINITION. The terms in which statements about the part are made: what a step keeps, what a request
needs and what it answers, offerability and the window condition as the spec lists them, and the invariants. -/

namespace Sys2Proof.Machine

/-! ### What a step keeps -/

/-- The clock, the holds of chip reset, the levels of the line pins, the model's own count of choices and the
waiting commands are kept. -/
abbrev SameBoard (s t : State) : Prop :=
  t.refclk = s.refclk ∧ t.divider = s.divider ∧ t.rstnHold = s.rstnHold ∧ t.powerHold = s.powerHold ∧
    t.rawLevels = s.rawLevels ∧ t.choices = s.choices ∧ t.pending = s.pending

/-- The Source Table and the Line Front End are kept. -/
abbrev SameSources (s t : State) : Prop :=
  t.lineSources = s.lineSources ∧ t.postedSources = s.postedSources

/-- The Source Table, the Line Front End and the Group Table are kept. -/
abbrev SameTables (s t : State) : Prop := SameSources s t ∧ t.groups = s.groups

/-- The records with their timers, and the pending lists, are kept. -/
abbrev SamePool (s t : State) : Prop := t.records = s.records ∧ t.lists = s.lists

/-- The configuration session and the committed Policy are kept. -/
abbrev SameSession (s t : State) : Prop := t.session = s.session ∧ t.policy = s.policy

/-- Every Host Context but that of host `h` is kept. -/
abbrev OtherHostsKept (h : HostId) (s t : State) : Prop := ∀ g, g ≠ h → t.host g = s.host g

/-- Every port but that of host `h` is kept. -/
abbrev OtherPortsKept (h : HostId) (s t : State) : Prop := ∀ g, g ≠ h → t.port g = s.port g

/-- Every record but `u` is kept, with its timer. -/
abbrev OtherRecordsKept (u : Tag) (s t : State) : Prop := ∀ v, v ≠ u → t.record v = s.record v

/-- Every line source but `n` is kept, with its filter. -/
abbrev OtherLinesKept (n : LineId) (s t : State) : Prop := ∀ m, m ≠ n → t.line m = s.line m

/-- Every group but `g` is kept. -/
abbrev OtherGroupsKept (g : GroupId) (s t : State) : Prop := ∀ k, k ≠ g → t.group k = s.group k

/-- Everything but the ports is kept, the ATTN outputs included. -/
abbrev OnlyPortsChange (s t : State) : Prop :=
  SameBoard s t ∧ t.attn = s.attn ∧ SameTables s t ∧ SamePool s t ∧ t.hosts = s.hosts ∧ SameSession s t

/-- The presence, floor, generation, strike count and stack of host `g` are kept; its queue may change. -/
abbrev StandingKept (g : HostId) (s t : State) : Prop :=
  (t.host g).presence = (s.host g).presence ∧ (t.host g).floor = (s.host g).floor ∧
    (t.host g).generation = (s.host g).generation ∧ (t.host g).strikes = (s.host g).strikes ∧
    (t.host g).stack = (s.host g).stack

/-- The board, the session and the ports are kept: all but the tables, the pool, the hosts and ATTN. -/
abbrev Elsewhere (s t : State) : Prop := SameBoard s t ∧ SameSession s t ∧ t.ports = s.ports

/-- REFCLK runs and chip reset is released, so that time passes (R1, R2, R5). -/
abbrev Clocked (s : State) : Prop := s.refclk = true ∧ s.inReset = false

/-- No event of an earlier tick boundary is still to be taken (R4). -/
abbrev NothingOwed (s : State) : Prop :=
  (∀ n, (s.line n).filter.all (fun f => !f.completes) = true) ∧
    (∀ u, (s.record u).timer ≠ .due) ∧ s.session.all (fun x => decide (x.timer ≠ .due)) = true

/-- A timer at a tick boundary (R3): a count above 0 falls by one, a timer found at 0 reaches its expiry. -/
def countedTimer : Timer → Timer
  | .running (k + 1) => .running k
  | .running 0 => .due
  | x => x

/-! ### Requests and their answers -/

/-- The requests that R122 takes in every presence state. -/
def alwaysTaken : Request → Bool
  | .join | .takeNotice | .peek | .readRecord _ | .readSource _ | .readGroup _ | .readPolicy => true
  | _ => false

/-- The requests that R122 takes from a DRAINING host besides: a LEAVE of any manner but GRACEFUL and the
three requests about a claim (R131). -/
def takenWhileDraining : Request → Bool
  | .extend .. | .complete .. | .handback .. => true
  | .leave manner => decide (manner ≠ 0)
  | _ => false

/-- The twenty command codes with their argument counts, as R190 lists them. -/
def commandTable : List (Byte × Nat) :=
  [(0x10, 0), (0x11, 1), (0x12, 1), (0x13, 0), (0x20, 0), (0x21, 2), (0x22, 2), (0x23, 2), (0x24, 4),
    (0x28, 0), (0x30, 1), (0x31, 1), (0x32, 1), (0x33, 0), (0x40, 0), (0x41, 6), (0x42, 5), (0x43, 12),
    (0x44, 0), (0x45, 0)]

/-- The request that a row of the table stands for, with its host and request tag. -/
def rowRequest : Instr → Option (HostId × RequestTag × Request)
  | .join h rt => some (h, rt, .join)
  | .leaveGraceful h rt => some (h, rt, .leave 0)
  | .leaveImmediate h rt => some (h, rt, .leave 1)
  | .setFloor h rt floor => some (h, rt, .setFloor floor)
  | .peek h rt => some (h, rt, .peek)
  | .claim h rt => some (h, rt, .claim)
  | .extend h rt tag epoch => some (h, rt, .extend tag epoch)
  | .complete h rt tag epoch => some (h, rt, .complete tag epoch)
  | .handback h rt tag epoch => some (h, rt, .handback tag epoch)
  | .raise h rt source payload notify => some (h, rt, .raise source payload notify)
  | .takeNotice h rt => some (h, rt, .takeNotice)
  | .readRecord h rt tag => some (h, rt, .readRecord tag)
  | .readSource h rt source => some (h, rt, .readSource source)
  | .readGroup h rt group => some (h, rt, .readGroup group)
  | .readPolicy h rt => some (h, rt, .readPolicy)
  | .openSession h rt => some (h, rt, .openSession)
  | .stageSource h rt source desc => some (h, rt, .stageSource source desc)
  | .stageGroup h rt group desc => some (h, rt, .stageGroup group desc)
  | .stagePolicy h rt policy => some (h, rt, .stagePolicy policy)
  | .commit h rt => some (h, rt, .commit)
  | .discard h rt => some (h, rt, .discard)
  | _ => none

/-- A request is taken at port `g` and waits, and was taken before the one that waits at port `h`, if one does
(section 0.6). -/
def takenBefore (s : State) (g h : HostId) : Bool :=
  match (s.port g).work, (s.port h).work with
  | .taken _ _ j, .taken _ _ k => decide (j < k)
  | .taken _ _ _, _ => true
  | _, _ => false

/-- No request of another port is to take effect before one of host `h` (R63). -/
abbrev InTurn (s : State) (h : HostId) : Prop := ∀ g, g ≠ h → takenBefore s g h = false

/-- A turn later than those of all requests that wait. -/
abbrev LaterTurn (s : State) (k : Nat) : Prop :=
  ∀ g, (match (s.port g).work with
    | .taken _ _ j => decide (j < k)
    | _ => true) = true

/-- The request row is carried out in this state (log entry 6): chip reset is released, and either the port
of the host is idle with REFCLK running, or the request in flight at the port is this one; and no request that another
port took earlier waits. -/
abbrev Serves (s : State) (h : HostId) (rt : RequestTag) (req : Request) : Prop :=
  s.inReset = false ∧
    (((s.port h).work = .idle ∧ s.refclk = true) ∨
      (match (s.port h).work with
        | .taken rt' req' _ => decide (rt' = rt ∧ req' = req)
        | _ => false) = true) ∧
    InTurn s h

/-- Port `h` holds the reply frame of this answer, waiting for its placement; its receive buffer and slot
are empty, the rest of it and the other ports are kept (R171, R177, R178). -/
abbrev Replies (s t : State) (h : HostId) (rt : RequestTag) (req : Request) (code : ResultCode)
    (data : List Byte) : Prop :=
  t.port h = { s.port h with
      work := .answered (replyFrame rt (requestCode req) { code := code, data := data })
      rx := [], slot := none } ∧
    OtherPortsKept h s t

/-- The answer is given and nothing beside the port changes. -/
abbrev AnswersAlone (s t : State) (h : HostId) (rt : RequestTag) (req : Request) (code : ResultCode)
    (data : List Byte) : Prop :=
  Replies s t h rt req code data ∧ OnlyPortsChange s t

/-- The first checks that a token meets (R75): its tag byte names record `u`, which host `h` holds CLAIMED
at the token's epoch. -/
abbrev ValidToken (s : State) (h : HostId) (tag epoch : Byte) (u : Tag) : Prop :=
  tag.toNat = u.val ∧ (s.record u).epoch = epoch ∧
    (s.occ u).any (fun c => match c.phase with
      | .claimed holder _ _ => decide (holder = h)
      | _ => false) = true

/-- Host `h` is PRESENT, or DRAINING with another entry on its stack than that of record `u`, so that the
removal of that entry ends no drain (R129). -/
abbrev StaysJoined (s : State) (h : HostId) (u : Tag) : Prop :=
  (s.host h).presence = .present ∨
    ((s.host h).presence = .draining ∧ ∃ e ∈ (s.host h).stack, e.tag ≠ u)

/-! ### Offers and windows -/

/-- The six conditions of R60 on a live record's fields and a host. -/
abbrev OfferConditions (s : State) (h : HostId) (c : Occurrence) : Prop :=
  (s.host h).presence = .present ∧
  (∃ f, (s.host h).floor = some f ∧ c.level ≤ f) ∧
  hasHost (s.termsOf c.origin).route h = true ∧
  hasHost c.exclusion h = false ∧
  c.level.val < (s.host h).runningLevel ∧
  (c.phase = .pendingOpen ∨
    c.phase = .pendingExcl ∧ (s.termsOf c.origin).preferred = some h)

/-- Record `u` is offerable to host `h` (R60). -/
abbrev Offerable (s : State) (h : HostId) (u : Tag) : Prop :=
  (s.occ u).any (fun c => decide (OfferConditions s h c)) = true

/-- Each ATTN output is asserted exactly when its host's queue is not empty or a record is offerable to it,
and released while chip reset is asserted (R68). -/
abbrev AttnSettled (s : State) : Prop :=
  ∀ h, s.attn.look h = true ↔
    s.inReset = false ∧ ((s.host h).queue ≠ [] ∨ ∃ u, Offerable s h u)

/-- The five terms of the window condition (R55). -/
abbrev WindowHolds (s : State) (terms : Terms) (exclusion : HostSet) : Prop :=
  ∃ p, terms.preferred = some p ∧ terms.window ≠ 0 ∧ hasHost terms.route p = true ∧
    hasHost exclusion p = false ∧ (s.host p).presence = .present

/-- The record with these fields that enters a PENDING state (R30, R34, R55): PENDING_EXCL with its window
started, or PENDING_OPEN with its timer stopped. The condition is read in `s` under the terms given. -/
abbrev EnteredRecord (s : State) (epoch : Byte) (terms : Terms) (c : Occurrence) (r : Record) : Prop :=
  (WindowHolds s terms c.exclusion ∧
    r = { epoch := epoch, timer := .running terms.window.toNat
          occ := some { c with phase := .pendingExcl } }) ∨
  (¬ WindowHolds s terms c.exclusion ∧
    r = { epoch := epoch, timer := .stopped, occ := some { c with phase := .pendingOpen } })

/-- Record `u` enters a PENDING state with the fields `c`: it joins the tail of the list of its level, and
every other list and record is kept (R34, R51). -/
abbrev EntersPending (s t : State) (u : Tag) (terms : Terms) (c : Occurrence) : Prop :=
  EnteredRecord s (s.record u).epoch terms c (t.record u) ∧
    t.list c.level = s.list c.level ++ [u] ∧
    (∀ l, l ≠ c.level → t.list l = s.list l) ∧ OtherRecordsKept u s t

/-- No origin is starved: no line source outside a group and no group carries the mark (section 3.7). -/
abbrev NoneStarved (s : State) : Prop :=
  (∀ n, (s.line n).desc.group = none → (s.line n).starved = none) ∧
    ∀ g, (s.group g).starved = false

/-- Line source `n` is a starved origin (section 3.7). -/
abbrev StarvedLine (s : State) (n : LineId) : Prop := (s.line n).desc.group = none ∧ (s.line n).starved ≠ none

/-- Line source `n` is the starved origin that a freed tag is granted to (R43): no other has a more urgent level, and
none of its level a lower number. -/
abbrev FirstStarvedLine (s : State) (n : LineId) : Prop :=
  StarvedLine s n ∧
  (∀ m, StarvedLine s m →
    (s.line n).desc.terms.level < (s.line m).desc.terms.level ∨
      ((s.line n).desc.terms.level = (s.line m).desc.terms.level ∧ n ≤ m)) ∧
  ∀ g, (s.group g).starved = true → (s.line n).desc.terms.level ≤ (s.group g).desc.terms.level

/-- Group `k` is the starved origin that a freed tag is granted to (R43): every starved line source is less urgent, no
other group more urgent, and none of its level has a lower number. -/
abbrev FirstStarvedGroup (s : State) (k : GroupId) : Prop :=
  (s.group k).starved = true ∧
  (∀ m, StarvedLine s m → (s.group k).desc.terms.level < (s.line m).desc.terms.level) ∧
  ∀ g, (s.group g).starved = true →
    (s.group k).desc.terms.level < (s.group g).desc.terms.level ∨
      ((s.group k).desc.terms.level = (s.group g).desc.terms.level ∧ k ≤ g)

/-- Tag `u` is the lowest-numbered FREE tag (R31). -/
abbrev LowestFree (s : State) (u : Tag) : Prop :=
  s.occ u = none ∧ ∀ v, v < u → s.occ v ≠ none

/-- The origin has no live record. -/
abbrev NoLiveRecord (s : State) (o : Origin) : Prop :=
  ∀ u, (s.occ u).all (fun c => decide (c.origin ≠ o)) = true

/-- The origin has no PENDING record. -/
abbrev NoPendingRecord (s : State) (o : Origin) : Prop :=
  ∀ u, (s.occ u).all (fun c => decide (c.origin ≠ o) || c.phase.isClaimed) = true

/-- The origin has no CLAIMED record. -/
abbrev NoClaimedRecord (s : State) (o : Origin) : Prop :=
  ∀ u, (s.occ u).all (fun c => decide (c.origin ≠ o) || c.phase.isPending) = true

/-- The fields a record is created with (R32). -/
def createdFields (o : Origin) (seq : Byte) (level : Level) (merge : Nat) (posted : Option PostedFields)
    (exclusion : HostSet) : Occurrence :=
  { origin := o, seq := seq, level := level, merge := merge, again := false, posted := posted
    exclusion := exclusion, reoffer := 0, phase := .pendingOpen }

/-- The queue and overflow flag of host `g` after one notice handed to it while it may be placed (R144). -/
abbrev NoticePlaced (s t : State) (g : HostId) (n : Notice) : Prop :=
  ((s.host g).queue.length < 8 ∧ t.host g = { s.host g with queue := (s.host g).queue ++ [n] }) ∨
    (8 ≤ (s.host g).queue.length ∧ t.host g = { s.host g with overflow := true })

/-- A line filter whose change has completed and was judged: the reference level follows (R12, R16). -/
abbrev changedFilter (f : LineFilter) : LineFilter :=
  { filtered := f.candidate, candidate := f.candidate, stable := 0, reference := f.candidate
    completes := false }

/-- A line change of the enabled, edge-sensed source `n` is to be delivered, and its edge, from the reference
level to the new filtered level, matches the sense (R12, R16). -/
abbrev MatchingEdge (s : State) (n : LineId) (f : LineFilter) : Prop :=
  Clocked s ∧ (s.line n).filter = some f ∧ f.completes = true ∧ (s.line n).desc.enabled = true ∧
    ((f.reference = false ∧ f.candidate = true ∧
        ((s.line n).desc.sense = .rising ∨ (s.line n).desc.sense = .both)) ∨
      (f.reference = true ∧ f.candidate = false ∧
        ((s.line n).desc.sense = .falling ∨ (s.line n).desc.sense = .both)))

/-- An exclusion set after an enlargement (R33): cleared when it holds every host of the route set. -/
def excludedAfter (route set : HostSet) : HostSet :=
  if ∀ g, hasHost route g = true → hasHost set g = true then 0 else set

/-- The outcome of a member trigger of source `n` at group `g` (R101, R102, R106): discarded when the group is
disabled; otherwise `n` joins the collect set, and a record is requested, or the PENDING record's merge count
rises, or nothing more happens. `u` is the lowest FREE tag, or the tag of the live record. -/
abbrev MemberTriggered (s t : State) (n : LineId) (g : GroupId) (terms : Terms) (u : Tag) : Prop :=
  ((s.group g).desc.enabled = false → t.group g = s.group g ∧ SamePool s t) ∧
  ((s.group g).desc.enabled = true →
    ((s.group g).starved = true →
      t.group g = { s.group g with collect := insertSource n (s.group g).collect } ∧ SamePool s t) ∧
    ((s.group g).starved = false → (s.group g).live = none →
      (LowestFree s u →
        t.group g = { s.group g with
          collect := insertSource n (s.group g).collect, seq := (s.group g).seq + 1, live := some u } ∧
        EntersPending s t u terms
          (createdFields (.group g) ((s.group g).seq + 1) terms.level 0 none 0)) ∧
      ((∀ v, s.occ v ≠ none) →
        t.group g = { s.group g with
          collect := insertSource n (s.group g).collect, starved := true } ∧ SamePool s t)) ∧
    ((s.group g).starved = false → (s.group g).live = some u →
      t.group g = { s.group g with collect := insertSource n (s.group g).collect } ∧
      t.lists = s.lists ∧ OtherRecordsKept u s t ∧
      t.record u = { s.record u with
        occ := (s.occ u).map (fun c =>
          if c.phase.isPending then { c with merge := min 255 (c.merge + 1) } else c) }))

/-- The level at which a sense stands (section 2.3). -/
abbrev AtActiveLevel (sense : Sense) (level : Bool) : Prop :=
  (sense = .high ∧ level = true) ∨ (sense = .low ∧ level = false)

/-- A completed record of origin `o` is re-armed (R39). -/
abbrev ReArms (s : State) (o : Origin) (again : Bool) : Prop :=
  (∃ n, o = .line n ∧ (s.line n).desc.enabled = true ∧ (s.line n).desc.group = none ∧
    (((s.line n).desc.sense.isLevel = false ∧ (s.line n).desc.clearPolicy = .onComplete ∧ again = true) ∨
      (s.line n).filter.any (fun f => decide (AtActiveLevel (s.line n).desc.sense f.filtered)) = true)) ∨
  (∃ g, o = .group g ∧ (s.group g).desc.enabled = true ∧ (s.group g).collect ≠ [])

/-- A record after its preferred host `h` has left PRESENT: a PENDING_EXCL record that prefers `h` is
PENDING_OPEN with its window stopped, any other is kept (R57). -/
def openedFor (s : State) (h : HostId) (u : Tag) : Record :=
  match s.occ u with
  | some c =>
    if c.phase = .pendingExcl ∧ (s.termsOf c.origin).preferred = some h then
      { s.record u with timer := .stopped, occ := some { c with phase := .pendingOpen } }
    else s.record u
  | none => s.record u

/-- A record that an event leaves alone, but for its window where the event takes the host `gone` out of PRESENT
(R57). -/
def keptFor (s : State) (gone : Option HostId) (v : Tag) : Record :=
  match gone with
  | some h => openedFor s h v
  | none => s.record v

/-- Host `h` holds the record with these fields CLAIMED. -/
def heldBy (h : HostId) (c : Occurrence) : Bool :=
  match c.phase with
  | .claimed holder _ _ => decide (holder = h)
  | _ => false

/-- The fields of a record at its return from host `h`, whatever its course (R45, R47). -/
def returnedFields (terms : Terms) (h : HostId) (c : Occurrence) : Occurrence :=
  { c with
    exclusion := excludedAfter terms.route (c.exclusion ||| hostBit h)
    reoffer := c.reoffer + 1, again := false
    merge := if c.again then min 255 (c.merge + 1) else c.merge }

/-- The fields with which a record that host `h` held comes back to PENDING: its line source, if it is starved, hands
over its starved-trigger count (R24, R49). -/
def comesBack (s : State) (h : HostId) (c : Occurrence) : Occurrence :=
  let r := returnedFields (s.termsOf c.origin) h c
  match c.origin with
  | .line n =>
    match (s.line n).starved with
    | some k => { r with merge := min 255 (r.merge + k) }
    | none => r
  | _ => r

/-- What the tables hold after a record with the fields `c` came back to PENDING: the mark of its line source is
cleared, its group takes back the members of the claim that are still enabled members, and nothing else changes (R24,
R104). -/
abbrev TablesAfterReturn (s t : State) (c : Occurrence) : Prop :=
  (∀ n, t.line n = if c.origin = .line n then { s.line n with starved := none } else s.line n) ∧
    t.postedSources = s.postedSources ∧ (∀ g, c.origin ≠ .group g → t.group g = s.group g) ∧
    ∀ g, c.origin = .group g →
      t.group g = { s.group g with collect := (t.group g).collect } ∧
      ∀ n, n ∈ (t.group g).collect ↔
        (n ∈ (s.group g).collect ∨ (n ∈ c.phase.members ∧ (s.line n).desc.enabled = true ∧
          (s.line n).desc.group = some g))

/-- The record that comes back to PENDING with the fields `c`: as `EnteredRecord`, but open where its window is for
the host that leaves PRESENT in the same event. -/
abbrev ReturnedRecord (s : State) (gone : Option HostId) (epoch : Byte) (terms : Terms) (c : Occurrence)
    (r : Record) : Prop :=
  (WindowHolds s terms c.exclusion ∧ terms.preferred ≠ gone →
    r = { epoch := epoch, timer := .running terms.window.toNat
          occ := some { c with phase := .pendingExcl } }) ∧
  (¬ (WindowHolds s terms c.exclusion ∧ terms.preferred ≠ gone) →
    r = { epoch := epoch, timer := .stopped, occ := some { c with phase := .pendingOpen } })

/-- A freed tag `u` is granted to an origin with these terms, whose new record has the fields `c` (R44): it enters a
PENDING state at the tail of the list of its level. -/
abbrev GrantedTag (s t : State) (gone : Option HostId) (u : Tag) (terms : Terms) (c : Occurrence) : Prop :=
  ReturnedRecord s gone (s.record u).epoch terms c (t.record u) ∧
    t.list c.level = s.list c.level ++ [u] ∧ ∀ l, l ≠ c.level → t.list l = s.list l

/-- What becomes of the tag `u` of a CLAIMED record that is freed, and of the lists (R41, R43, R44): it is FREE where
no origin is starved, and otherwise granted to the first of them. -/
abbrev TagAfterFreeing (s t : State) (gone : Option HostId) (u : Tag) : Prop :=
  (NoneStarved s →
    t.record u = { epoch := (s.record u).epoch, timer := .stopped, occ := none } ∧ t.lists = s.lists) ∧
  (∀ n, FirstStarvedLine s n →
    GrantedTag s t gone u (s.line n).desc.terms
      (createdFields (.line n) ((s.line n).seq + 1) (s.line n).desc.terms.level
        (if (s.line n).desc.sense.isLevel then 0 else (s.line n).starved.getD 0 - 1) none 0)) ∧
  ∀ k, FirstStarvedGroup s k →
    GrantedTag s t gone u (s.group k).desc.terms
      (createdFields (.group k) ((s.group k).seq + 1) (s.group k).desc.terms.level 0 none 0)

/-- What line source `n` holds after a freeing (R24, R44): one that got the freed tag has lost its mark and advanced its
sequence counter. -/
def lineAfterFreeing (s : State) (n : LineId) : LineSource :=
  if FirstStarvedLine s n then { s.line n with starved := none, seq := (s.line n).seq + 1 } else s.line n

/-- The Source Table after a freeing. -/
abbrev SourcesAfterFreeing (s t : State) : Prop :=
  (∀ n, t.line n = lineAfterFreeing s n) ∧ t.postedSources = s.postedSources

/-- What group `g` holds after the freeing of record `u` of the origin `o` (R41, R44): a group loses its freed record,
and one that got the freed tag has lost its mark, advanced its sequence counter and takes the tag as its live
record. -/
def groupAfterFreeing (s : State) (u : Tag) (o : Origin) (g : GroupId) : Group :=
  let x := if o = .group g then { s.group g with live := none } else s.group g
  if FirstStarvedGroup s g then { x with starved := false, seq := x.seq + 1, live := some u } else x

/-- The CLAIMED record `u`, with the fields `c`, is freed, its tag granted where an origin is starved, and every other
record is left alone (R41, R43, R44). -/
abbrev TagFreed (s t : State) (gone : Option HostId) (u : Tag) (c : Occurrence) : Prop :=
  TagAfterFreeing s t gone u ∧ (∀ v, v ≠ u → t.record v = keptFor s gone v) ∧
    SourcesAfterFreeing s t ∧ ∀ g, t.group g = groupAfterFreeing s u c.origin g

/-- An abandoned origin fires again at once (R46 steps 3 and 4): a source that stands, a group with a non-empty
collect set. -/
def firesAgain (s : State) : Origin → Bool
  | .line n => (s.line n).desc.enabled && (s.line n).filter.any (fun f =>
      decide (AtActiveLevel (s.line n).desc.sense f.filtered))
  | .group g => !(s.group g).collect.isEmpty
  | .posted _ => false

/-- The level test of the standing source `n` outside groups (R18, R23): with no live record and no mark it gets a
record in the lowest FREE tag `w`, or is starved where none is FREE; otherwise nothing happens. -/
abbrev LevelFired (s t : State) (n : LineId) (w : Tag) : Prop :=
  (¬ NoLiveRecord s (.line n) ∨ (s.line n).starved ≠ none → t.line n = s.line n ∧ SamePool s t) ∧
  (NoLiveRecord s (.line n) → (s.line n).starved = none →
    (LowestFree s w →
      t.line n = { s.line n with seq := (s.line n).seq + 1 } ∧
      EntersPending s t w (s.line n).desc.terms
        (createdFields (.line n) ((s.line n).seq + 1) (s.line n).desc.terms.level 0 none 0)) ∧
    ((∀ v, s.occ v ≠ none) → t.line n = { s.line n with starved := some 1 } ∧ SamePool s t))

/-- Group `g`, whose record was abandoned, requests a record for its collect set (R46 step 4, R102, R106): enabled, not
starved, without a live record and with something collected it gets one in the lowest FREE tag `w`, or is starved where
none is FREE; otherwise nothing happens. -/
abbrev GroupRequested (s t : State) (g : GroupId) (w : Tag) : Prop :=
  ((s.group g).desc.enabled = false ∨ (s.group g).starved = true ∨ (s.group g).live ≠ none ∨
      (s.group g).collect = [] → t.group g = s.group g ∧ SamePool s t) ∧
  ((s.group g).desc.enabled = true → (s.group g).starved = false → (s.group g).live = none →
    (s.group g).collect ≠ [] →
    (LowestFree s w →
      t.group g = { s.group g with seq := (s.group g).seq + 1, live := some w } ∧
      EntersPending s t w (s.group g).desc.terms
        (createdFields (.group g) ((s.group g).seq + 1) (s.group g).desc.terms.level 0 none 0)) ∧
    ((∀ v, s.occ v ≠ none) → t.group g = { s.group g with starved := true } ∧ SamePool s t))

/-- What an abandoned origin does after the freeing of its record (R46 steps 3 and 4): a source that stands fires, as
its own origin or to its group, a group requests a record, and any other does nothing. -/
abbrev Refired (s t : State) (o : Origin) (w : Tag) : Prop :=
  t.postedSources = s.postedSources ∧
  ((∀ n, o ≠ .line n) ∨ firesAgain s o = false → t.lineSources = s.lineSources) ∧
  ((∀ g, o ≠ .group g) ∧ firesAgain s o = false → t.groups = s.groups ∧ SamePool s t) ∧
  (∀ n, o = .line n → OtherLinesKept n s t ∧
    (firesAgain s o = true →
      ((s.line n).desc.group = none → LevelFired s t n w ∧ t.groups = s.groups) ∧
      ∀ k, (s.line n).desc.group = some k →
        t.line n = s.line n ∧ MemberTriggered s t n k (s.group k).desc.terms w ∧ OtherGroupsKept k s t)) ∧
  ∀ g, o = .group g → OtherGroupsKept g s t ∧ GroupRequested s t g w

/-- The abandonment of record `u` with the fields `c` (R46): it is freed, and its origin may fire again after that, in
the state `m`. -/
abbrev AbandonedPool (s t : State) (gone : Option HostId) (u : Tag) (c : Occurrence) : Prop :=
  ∃ m : State,
    TagFreed s m gone u c ∧ (∀ g, (m.host g).presence = (s.host g).presence) ∧ ∀ w, Refired m t c.origin w

/-- The PENDING record `v` after the returning record `c` has merged into it (R47, R48). -/
def mergedRecord (s : State) (gone : Option HostId) (h : HostId) (terms : Terms) (v : Tag)
    (c d : Occurrence) : Record :=
  let c' := returnedFields terms h c
  let union := excludedAfter terms.route (d.exclusion ||| c'.exclusion)
  let opens := d.phase = .pendingExcl ∧
    (terms.preferred.any (fun p => hasHost union p) = true ∨ (gone ≠ none ∧ terms.preferred = gone))
  { s.record v with
    timer := if opens then .stopped else (s.record v).timer
    occ := some { d with
      merge := min 255 (d.merge + (c'.merge + 1)), reoffer := max d.reoffer c'.reoffer, exclusion := union
      phase := if opens then .pendingOpen else d.phase } }

/-- Record `v` with the fields `d` is the one PENDING record of the origin. -/
abbrev OnlyPending (s : State) (o : Origin) (v : Tag) (d : Occurrence) : Prop :=
  d.origin = o ∧ d.phase.isPending = true ∧
    ∀ w, w ≠ v → (s.occ w).all (fun e => decide (e.origin ≠ o) || e.phase.isClaimed) = true

/-- What the pool and the tables hold after the return of record `u`, with the fields `c`, from host `h` (R45 to R49),
by the course the return takes: withdrawn, abandoned, merged into the PENDING record `v`, back to PENDING. `gone` is the
host that leaves PRESENT in the same event; where there is one, the abandoned origin does not fire again. -/
abbrev ReturnCourse (s t : State) (h : HostId) (gone : Option HostId) (u : Tag) (c : Occurrence) : Prop :=
  (s.enabledOf c.origin = false → TagFreed s t gone u c) ∧
  (s.enabledOf c.origin = true → (s.termsOf c.origin).reofferLimit.val < c.reoffer + 1 →
    gone = none ∨ firesAgain s c.origin = false → AbandonedPool s t gone u c) ∧
  (s.enabledOf c.origin = true → c.reoffer + 1 ≤ (s.termsOf c.origin).reofferLimit.val →
    ∀ v, ∀ d ∈ s.occ v, OnlyPending s c.origin v d →
      TagAfterFreeing s t gone u ∧
      t.record v = mergedRecord s gone h (s.termsOf c.origin) v c d ∧
      (∀ w, w ≠ u → w ≠ v → t.record w = keptFor s gone w) ∧ SourcesAfterFreeing s t ∧
      ∀ g, c.origin ≠ .group g → t.group g = groupAfterFreeing s u c.origin g) ∧
  (s.enabledOf c.origin = true → c.reoffer + 1 ≤ (s.termsOf c.origin).reofferLimit.val →
    NoPendingRecord s c.origin →
    ReturnedRecord s gone (s.record u).epoch (s.termsOf c.origin) (comesBack s h c) (t.record u) ∧
    (∀ v, v ≠ u → t.record v = keptFor s gone v) ∧ t.list c.level = s.list c.level ++ [u] ∧
    (∀ l, l ≠ c.level → t.list l = s.list l) ∧ TablesAfterReturn s t c)

/-- Every record that host `h` holds comes back to PENDING when it returns: its origin is enabled and within its
limit, and has no other record PENDING or held by `h`. -/
abbrev AllComeBack (s : State) (h : HostId) : Prop :=
  ∀ u, ∀ c ∈ s.occ u, heldBy h c = true →
    s.enabledOf c.origin = true ∧ c.reoffer + 1 ≤ (s.termsOf c.origin).reofferLimit.val ∧
    NoPendingRecord s c.origin ∧ ∀ v, v ≠ u → (s.occ v).all (fun d => decide (d.origin ≠ c.origin) || !heldBy h d) = true

/-- Every record that host `h` held is back in PENDING with `h` excluded, at the tail of its list; every other record
is left alone. `h` leaves PRESENT in the same event. -/
abbrev AllReturned (s t : State) (h : HostId) : Prop :=
  (∀ l, t.list l = s.list l ++
    ((s.host h).stack.filter (fun e => decide (e.level = l))).map (fun e => e.tag)) ∧
  (∀ u, ∀ c ∈ s.occ u, heldBy h c = true →
    ReturnedRecord s (some h) (s.record u).epoch (s.termsOf c.origin)
      (comesBack s h c) (t.record u)) ∧
  ∀ u, (s.occ u).any (heldBy h) = false → t.record u = openedFor s h u

/-- A queue after one notice that may be placed (R144). -/
def told (x : HostContext) (n : Notice) : HostContext :=
  if x.queue.length < 8 then { x with queue := x.queue ++ [n] } else { x with overflow := true }

/-- The Host Context `x` of host `g` after the notices of the abandonment of a record with the fields `c` (R46 steps 1
and 2, R117): ABANDONED for a PRESENT host of the route set, and after it POSTED_ABANDONED for the PRESENT or
DRAINING raiser that asked. -/
def toldOfAbandonment (s : State) (c : Occurrence) (g : HostId) (x : HostContext) : HostContext :=
  let x := if x.presence = .present ∧ hasHost (s.termsOf c.origin).route g = true then
      told x (.abandoned c.origin c.seq c.level) else x
  match c.origin, c.posted with
  | .posted n, some p =>
    if p.notify = true ∧ p.raiser = g ∧ (x.presence = .present ∨ x.presence = .draining) then
      told x (.postedAbandoned n c.seq) else x
  | _, _ => x

/-- The Host Context of `g` after host `h` lost the entry of record `u` (R72). -/
def withoutEntry (s : State) (h : HostId) (u : Tag) (g : HostId) : HostContext :=
  if g = h then { s.host g with stack := (s.host g).stack.filter (fun e => decide (e.tag ≠ u)) } else s.host g

/-- The Host Context of `g` after the record `u`, with the fields `c`, was abandoned at its HANDBACK by host `h`. -/
def abandonedHost (s : State) (h : HostId) (u : Tag) (c : Occurrence) (g : HostId) : HostContext :=
  toldOfAbandonment s c g (withoutEntry s h u g)

/-- The Host Context of the holder `h` of record `u`, with the fields `c`, after the first steps of the expiry of its
lease (R90 steps 1 and 2): the entry has left the stack, and REVOKED is placed or dropped. -/
def revokedHost (s : State) (h : HostId) (u : Tag) (c : Occurrence) : HostContext :=
  told (withoutEntry s h u h) (.revoked u c.origin c.seq)

/-- What a commit entry makes of the PENDING record `u` of its origin, with the fields `c` (R53, R58): a changed level
moves it to the tail of its new list, a changed preferred host opens it, and nothing else of it changes. -/
abbrev MovedAndOpened (s t : State) (u : Tag) (c : Occurrence) (old new : Terms) : Prop :=
  (new.level = old.level → t.lists = s.lists ∧
    (t.occ u).any (fun e => decide (e.level = c.level)) = true) ∧
  (new.level ≠ old.level →
    (∀ l, t.list l = (if l = c.level then (s.list l).filter (fun v => decide (v ≠ u))
      else s.list l) ++ (if l = new.level then [u] else [])) ∧
    (t.occ u).any (fun e => decide (e.level = new.level)) = true) ∧
  (new.preferred = old.preferred ∨ c.phase = .pendingOpen →
    t.record u = { s.record u with
      occ := (t.occ u).map (fun e => { c with level := e.level }) }) ∧
  (new.preferred ≠ old.preferred → c.phase = .pendingExcl →
    t.record u = { s.record u with
      timer := .stopped
      occ := (t.occ u).map (fun e => { c with level := e.level, phase := .pendingOpen }) })

/-- The state in which the PENDING record `u` with the fields `c` has left its list (R41 step 1). -/
def withoutPending (s : State) (u : Tag) (c : Occurrence) : State :=
  s.setList c.level ((s.list c.level).filter (fun v => decide (v ≠ u)))

/-- A commit withdraws the PENDING record `u` with the fields `c` (R42): it leaves its list, and its tag is FREE or
granted; every other record is kept. -/
abbrev WithdrawnByCommit (s t : State) (u : Tag) (c : Occurrence) : Prop :=
  TagAfterFreeing (withoutPending s u c) t none u ∧ OtherRecordsKept u s t

/-- Source `n` has left the collect set of a group; a set left empty clears the group's mark (R106, R108). -/
def leftBy (n : LineId) (x : Group) : Group :=
  let rest := x.collect.filter (fun m => decide (m ≠ n))
  { x with collect := rest, starved := x.starved && decide (rest ≠ []) }

/-- The enabled, level-sensed members of a group that stand, in ascending number (R21, R107). -/
def standingMembers (s : State) (g : GroupId) : List LineId :=
  (List.finRange 48).filter (fun n =>
    decide ((s.line n).desc.group = some g) && (s.line n).desc.enabled &&
      (s.line n).filter.any (fun f => decide (AtActiveLevel (s.line n).desc.sense f.filtered)))

/-- A filter whose reference level is re-taken from its filtered level (R19). -/
abbrev retaken (f : LineFilter) : LineFilter := { f with reference := f.filtered }

/-- No PENDING_EXCL record prefers host `h`. -/
abbrev NoWindowFor (s : State) (h : HostId) : Prop :=
  ∀ u, (s.occ u).any (fun c =>
    decide (c.phase = .pendingExcl ∧ (s.termsOf c.origin).preferred = some h)) = false

/-- No record is CLAIMED by host `h`. -/
abbrev HoldsNothing (s : State) (h : HostId) : Prop :=
  ∀ u, (s.occ u).any (fun c => match c.phase with
    | .claimed holder _ _ => decide (holder = h)
    | _ => false) = false

/-- Why a staged entry fails a commit check (R163): 0 GROUP_FULL, 1 POSTED_GROUP, 2 LIVE_RECORDS, the first
in the order of the rule. -/
def failsCheck (s : State) (staged : List StagedEntry) (e : StagedEntry) : Option Nat :=
  let full (old new : Option GroupId) : Bool := groupIds.any (fun g =>
    decide (new = some g) && decide (old ≠ some g) &&
      decide (8 < (lineIds.filter (fun n => decide (s.groupAfter staged n = some g))).length))
  match e with
  | .line n d =>
    if full (s.line n).desc.group d.group then some 0
    else if 1 < (s.liveTags (.line n)).length ∧
        (((s.line n).desc.clearPolicy = .onClaim ∧ d.clearPolicy = .onComplete) ∨
          ((s.line n).desc.sense.isLevel = false ∧ d.sense.isLevel = true)) then some 2
    else none
  | .posted n d =>
    if full (s.posted n).desc.group d.group then some 0
    else if d.group ≠ none then some 1
    else none
  | _ => none

/-! ### Bits on the wire and chip reset values -/

/-- The status byte of port `h`, field by field (R173, R190). -/
def statusLayout (s : State) (h : HostId) : Byte :=
  BitVec.ofNat 2 (s.host h).presence.code ++ BitVec.ofBool (decide (∃ u, Offerable s h u)) ++
    BitVec.ofBool (decide ((s.host h).queue ≠ [])) ++ BitVec.ofBool (s.host h).overflow ++
    BitVec.ofBool (s.session.any (fun x => decide (x.holder = h))) ++
    BitVec.ofBool (s.port h).overrun ++ BitVec.ofBool (s.port h).slot.isSome

/-- The bits of a byte, most significant first (R8). -/
def bitsOfByte (b : Byte) : List Bool :=
  [b.getLsbD 7, b.getLsbD 6, b.getLsbD 5, b.getLsbD 4, b.getLsbD 3, b.getLsbD 2, b.getLsbD 1,
    b.getLsbD 0]

/-- The bits of a frame as MOSI carries them (R8). -/
def bitsOfFrame (frame : List Byte) : List Bool := frame.flatMap bitsOfByte

/-- The Source Descriptor after chip reset, field by field (section 2.2). -/
abbrev ResetSource (d : SourceDescriptor) : Prop :=
  d = { enabled := false, sense := .rising, clearPolicy := .onComplete, group := none, debounce := 0
        selfExclude := false
        terms := { level := 3, route := 0b1111, preferred := none, leaseClass := 1, reofferLimit := 3
                   window := 0 } }

/-- The Group Descriptor after chip reset, field by field (section 6.1). -/
abbrev ResetGroup (d : GroupDescriptor) : Prop :=
  d = { enabled := false
        terms := { level := 3, route := 0b1111, preferred := none, leaseClass := 1, reofferLimit := 3
                   window := 0 } }

/-- The pool is as R28 states it after release. -/
abbrev PoolAtReset (s : State) : Prop :=
  (∀ u, s.record u = { epoch := 0, timer := .stopped, occ := none }) ∧ (∀ l, s.list l = []) ∧
    s.freeCount = 32 ∧ (∀ g, (s.group g).live = none) ∧
    (∀ n, (s.line n).starved = none) ∧ (∀ g, (s.group g).starved = false) ∧
    ∀ h, (s.host h).stack = [] ∧ (s.host h).queue = []

/-- Every block holds its chip reset value (R7). The ports are told apart from the rest: they hold theirs
with their chip select pins as they stand. -/
abbrev BlocksAtReset (s : State) : Prop :=
  s.divider = 0 ∧ (∀ h, s.attn.look h = false) ∧
  (∀ n, ResetSource (s.line n).desc ∧ (s.line n).seq = 0 ∧ (s.line n).filter = none) ∧
  (∀ n, ResetSource (s.posted n).desc ∧ (s.posted n).seq = 0) ∧
  (∀ g, ResetGroup (s.group g).desc ∧ (s.group g).collect = [] ∧ (s.group g).seq = 0) ∧
  PoolAtReset s ∧
  (∀ h, s.host h = { presence := .absent, floor := none, generation := 0, strikes := 0, stack := []
                     queue := [], overflow := false }) ∧
  s.session = none ∧
  s.policy = { lease := ⟨#[100, 1000, 10000, 65535], rfl⟩, extensionLimit := 3, strikeLimit := 3
               sessionTimeout := 50000 } ∧
  ∀ h, s.port h = { csLow := (s.port h).csLow, recognising := false, transaction := none, rx := []
                    work := .idle, slot := none, overrun := false, miso := [] }

/-! ### Invariants -/

/-- The four lists together hold exactly the PENDING records, each once, in the list of its own level
(R29, R50). -/
abbrev ListsExact (s : State) : Prop :=
  ∀ l, (s.list l).Nodup ∧
    ∀ u, u ∈ s.list l ↔ (s.occ u).any (fun c => c.phase.isPending && decide (c.level = l)) = true

/-- Every CLAIMED record has a running lease and every PENDING_EXCL record a running window; no PENDING_OPEN
or FREE record has a running timer (R30). -/
abbrev TimersByState (s : State) : Prop :=
  ∀ u, (s.record u).timer.runs = (s.occ u).any (fun c => decide (c.phase ≠ .pendingOpen))

/-- A record is CLAIMED exactly when it stands in a stack, and then in that of its holder, with its level;
in every stack the levels fall strictly towards the top (R70). -/
abbrev StacksExact (s : State) : Prop :=
  (∀ h u, (∃ e ∈ (s.host h).stack, e.tag = u) ↔
    (s.occ u).any (fun c => match c.phase with
      | .claimed holder _ _ => decide (holder = h)
      | _ => false) = true) ∧
  (∀ h, ∀ e ∈ (s.host h).stack, (s.occ e.tag).any (fun c => decide (c.level = e.level)) = true) ∧
  ∀ h, (s.host h).stack.Pairwise (fun upper lower => upper.level < lower.level)

/-- Where a host stands, as R121, R133, R135 and R152 keep it. -/
abbrev PresenceConsistent (s : State) : Prop :=
  (∀ h, (s.host h).presence = .absent →
    (s.host h).stack = [] ∧ (s.host h).queue = [] ∧ (s.host h).overflow = false) ∧
  (∀ h, (s.host h).presence = .fenced →
    (s.host h).stack = [] ∧ (s.host h).queue.length ≤ 1 ∧ (s.host h).overflow = false) ∧
  (∀ h, (s.host h).presence = .draining → (s.host h).stack ≠ []) ∧
  (∀ h, (s.host h).presence ≠ .present → (s.host h).floor = none) ∧
  (∀ h, (s.host h).strikes ≤ 7) ∧
  ∀ h, s.session.any (fun x => decide (x.holder = h)) = true → (s.host h).presence = .present

/-- While any origin carries a starved mark no record is FREE; a source in a group carries none (R20, R43). -/
abbrev NoneFreeWhileStarved (s : State) : Prop :=
  (∀ n, (s.line n).desc.group ≠ none → (s.line n).starved = none) ∧
    (((∃ n, (s.line n).starved ≠ none) ∨ ∃ g, (s.group g).starved = true) → ∀ u, s.occ u ≠ none)

/-- A Policy record lies within its ranges (R161). -/
abbrev PolicyInRange (p : Policy) : Prop := (∀ k, p.lease.look k ≠ 0) ∧ 1000 ≤ p.sessionTimeout.toNat

/-- A descriptor of a line source lies within its ranges (R159). -/
abbrev LineInRange (d : SourceDescriptor) : Prop :=
  d.terms.route ≠ 0 ∧ (d.sense.isLevel = true → d.clearPolicy = .onComplete)

/-- A descriptor of a posted source lies within its ranges (R110, R159). -/
abbrev PostedInRange (d : SourceDescriptor) : Prop := d.terms.route ≠ 0 ∧ d.clearPolicy = .onComplete

/-- A staged entry lies within its ranges (R159, R160). -/
abbrev StagedInRange : StagedEntry → Prop
  | .line _ d => LineInRange d
  | .posted _ d => PostedInRange d
  | .group _ d => d.terms.route ≠ 0
  | .policy p => PolicyInRange p

/-- The committed configuration and the staging list are legal: every record within its ranges, no group
with more than 8 members, no posted source in a group, at most 8 staged entries, none for the same target as
another (R98, R110, R158 to R161). -/
def ConfigurationLegal (s : State) : Prop :=
  (∀ n, LineInRange (s.line n).desc) ∧
  (∀ n, PostedInRange (s.posted n).desc ∧ (s.posted n).desc.group = none) ∧
  (∀ g, (s.group g).desc.terms.route ≠ 0) ∧ PolicyInRange s.policy ∧
  (∀ g, (s.membersOf g).length ≤ 8) ∧
  ∀ x, s.session = some x →
    x.staging.length ≤ 8 ∧ x.staging.Pairwise (fun a b => a.sameTarget b = false) ∧
      ∀ e ∈ x.staging, StagedInRange e

/-- The buffers keep within their sizes and the port its cycle: the divider counts to 39, no queue holds more
than 8 notices, a busy port has an empty slot, and a receive buffer holds at most 18 bytes, none unless a
frame waits to be judged (R1, R141, R171, R174). -/
abbrev BuffersBounded (s : State) : Prop :=
  s.divider ≤ 39 ∧ (∀ h, (s.host h).queue.length ≤ 8) ∧
    ∀ h, ((s.port h).work ≠ .idle → (s.port h).slot = none) ∧ (s.port h).rx.length ≤ 18 ∧
      ((s.port h).work ≠ .unjudged → (s.port h).rx = [])

end Sys2Proof.Machine
end

