-- ==== Sys2Proof/Certificates/Slice0/Obligations.lean ====
section
/-! DEFINITION. The statements for the provers. Each docstring names the rule of spec/ it follows. -/

open Sys2Proof Sys2Proof.Machine

/-! ### The step, chip reset and the clock -/

/-- A step carries out the command at the front of the queue on the state with the queue's rest. -/
def Obligations.StepTakesFrontCommand : Prop :=
  ∀ (c : Instr) (s : State) (rest : List Instr),
    step { s with pending := c :: rest } = exec c { s with pending := rest }

/-- R28: the pool after release, at every release of chip reset and in the model's reset state. -/
def Obligations.PoolAfterRelease : Prop :=
  (∀ (s : State) (ended : ResetHold),
    s.inReset = true →
    (ended = .rstn → s.powerHold = false) →
    (ended = .power → s.rstnHold = false) →
    ∃ t, exec (.release ended) s = .next t ∧
      t.inReset = false ∧ PoolAtReset t) ∧
  PoolAtReset State.reset ∧ State.reset.inReset = false

/-- Every invariant stated below holds in the reset state. -/
def Obligations.InvariantsHoldAtReset : Prop :=
  BlocksAtReset State.reset ∧ ListsExact State.reset ∧ TimersByState State.reset ∧
    StacksExact State.reset ∧ PresenceConsistent State.reset ∧ AttnSettled State.reset ∧
    NoneFreeWhileStarved State.reset ∧ ConfigurationLegal State.reset ∧ BuffersBounded State.reset

/-- R5, R6, R7: chip reset is asserted by RSTn low for the filter time or by VDD below its threshold, and a shorter
pulse has no effect; RELEASE ends one of the two holds, and chip reset with the last. Every block then holds its chip
reset value. That the blocks take these values at the assertion already, and hold them while the other hold still
stands, is the model's choice (log entry 12); so are the pins that are kept (log entries 1, 2 and 16) and that
RELEASE names the hold that ends (log entry 24). -/
def Obligations.ChipResetAndRelease : Prop :=
  (∀ (s : State) (cause : ResetCause),
    ∃ t, exec (.chipReset cause) s = .next t ∧
      (cause = .rstnPulse → t = s) ∧
      (cause ≠ .rstnPulse →
        t.inReset = true ∧
        t.rstnHold = (s.rstnHold || decide (cause = .rstnLow)) ∧
        t.powerHold = (s.powerHold || decide (cause = .vddLow)) ∧
        BlocksAtReset t ∧ (∀ h, (t.port h).csLow = (s.port h).csLow) ∧
        t.refclk = s.refclk ∧ t.rawLevels = s.rawLevels ∧ t.choices = s.choices ∧
        t.pending = s.pending)) ∧
  (∀ (s : State) (ended : ResetHold),
    ∃ t, exec (.release ended) s = .next t ∧
      (s.inReset = false → t = s) ∧
      (s.inReset = true →
        t.rstnHold = (s.rstnHold && decide (ended ≠ .rstn)) ∧
        t.powerHold = (s.powerHold && decide (ended ≠ .power)) ∧
        BlocksAtReset t ∧ (∀ h, (t.port h).csLow = (s.port h).csLow) ∧
        t.refclk = s.refclk ∧ t.rawLevels = s.rawLevels ∧ t.choices = s.choices ∧
        t.pending = s.pending))

/-- R1, R2, R6: with no command waiting a step is one rising edge of REFCLK, which advances the divider, and from 39
passes it to 0 with the tick boundary at the levels the line pins stand at; TICK_BOUNDARY takes the edges the tick
still wants (log entry 2). REFCLK_STOP stops the clock and nothing else; while REFCLK is stopped or chip reset is
asserted no edge counts and no tick boundary, line change or expiry acts, and in chip reset no request is taken and no
reply placed. -/
def Obligations.TimeFollowsRefclk : Prop :=
  (∀ (s : State), exec .refclkStop s = .next { s with refclk := false }) ∧
  (∀ (s : State), s.refclk = false ∨ s.inReset = true →
    (∀ levels, exec (.tickBoundary levels) s = .next s) ∧
    (∀ n, exec (.lineChange n) s = .next s) ∧
    (∀ u, exec (.windowExpiry u) s = .next s) ∧
    (∀ u, exec (.leaseExpiry u) s = .next s) ∧
    exec .sessionTimerExpiry s = .next s) ∧
  (∀ (s : State), s.inReset = true →
    (∀ h, exec (.replyPlacement h) s = .next s) ∧
    ∀ c, rowRequest c ≠ none → exec c s = .next s) ∧
  (∀ (s : State), s.pending = [] →
    (s.refclk = false ∨ s.inReset = true → step s = .next s) ∧
    (Clocked s → s.divider < 39 → step s = .next { s with divider := s.divider + 1 }) ∧
    (Clocked s → 39 ≤ s.divider → step s = exec (.tickBoundary s.rawLevels) s)) ∧
  ∀ (s : State) (levels : BitVec 48), Clocked s → s.divider < 39 →
    exec (.tickBoundary levels) s = exec (.tickBoundary levels) { s with divider := s.divider + 1 }

/-- R2: when REFCLK runs again, the frame that waits at a port is judged: a refused frame is answered by the
port, a sound one is taken, after every request taken before. That the requests taken at one resumption have no order
among them is log entry 27. Divider, timers and everything else go on from where they stood. -/
def Obligations.RefclkResumeJudgesWaitingFrames : Prop :=
  ∀ (s : State),
    ∃ t, exec .refclkResume s = .next t ∧
      t.refclk = true ∧ t.divider = s.divider ∧ t.rstnHold = s.rstnHold ∧ t.powerHold = s.powerHold ∧
      t.rawLevels = s.rawLevels ∧ t.choices = s.choices ∧ t.pending = s.pending ∧ t.attn = s.attn ∧ SameTables s t ∧
      SamePool s t ∧ t.hosts = s.hosts ∧ SameSession s t ∧
      (∀ h, (s.port h).work ≠ .unjudged → t.port h = s.port h) ∧
      ∃ k, LaterTurn s k ∧ ∀ h, (s.port h).work = .unjudged →
        t.port h = { s.port h with
          rx := [], slot := none
          work := match checkFrame (s.port h).rx with
            | .passed rt req => .taken rt req k
            | .fault rt command why =>
              .answered (replyFrame rt command { code := .frameError, data := [byte why.code] }) }

/-- R1, R3, R11, R12: at a tick boundary the divider passes to 0, every running timer counts, and each
seeded line's filter acts on its sample by the table of R12. A change that completes, and a timer that
reaches its expiry, are marked for the event that the next commands deliver (log entry 3). -/
def Obligations.TickBoundaryCountsAndSamples : Prop :=
  ∀ (s : State) (levels : BitVec 48),
    Clocked s → NothingOwed s → (∀ n, (s.line n).filter ≠ none) →
    ∃ t, exec (.tickBoundary levels) s = .next t ∧
      t.divider = 0 ∧ t.refclk = s.refclk ∧ t.rstnHold = s.rstnHold ∧ t.powerHold = s.powerHold ∧
      t.rawLevels = levels ∧ t.choices = s.choices ∧ t.pending = s.pending ∧ t.attn = s.attn ∧
      t.postedSources = s.postedSources ∧ t.groups = s.groups ∧ t.lists = s.lists ∧
      t.hosts = s.hosts ∧ t.policy = s.policy ∧ t.ports = s.ports ∧
      (∀ u, t.record u = { s.record u with timer := countedTimer (s.record u).timer }) ∧
      t.session = s.session.map (fun x => { x with timer := countedTimer x.timer }) ∧
      ∀ n, t.line n = { s.line n with
        filter := (s.line n).filter.map (fun f =>
          if levels.getLsbD n.val = f.filtered then
            { f with candidate := f.filtered, stable := 0, completes := false }
          else if f.candidate = f.filtered then
            { f with candidate := levels.getLsbD n.val, stable := 0
                     completes := decide ((s.line n).desc.debounce.val = 0) }
          else
            { f with stable := f.stable + 1
                     completes := decide ((s.line n).desc.debounce.val ≤ f.stable + 1) }) }

/-- R13, R17, R18, R20, R23, R32, R101, R102, R106: the first boundary after release seeds every filter, with no line
change; a standing source fires, as its own origin or as a member of its group. `n` names the one enabled level-sensed
source that may stand. Outside groups it gets a record, or is starved with no FREE tag, and does neither over a live
record or a mark; in a group its member trigger is taken by the state of the group. -/
def Obligations.SeedingTakesTheFirstSample : Prop :=
  ∀ (s : State) (levels : BitVec 48) (n : LineId) (u : Tag),
    Clocked s → NothingOwed s → (∀ m, (s.line m).filter = none) →
    (∀ v, (s.record v).timer = .stopped) → s.session = none →
    (∀ m, m ≠ n → (s.line m).desc.enabled = false ∨
      ¬ AtActiveLevel (s.line m).desc.sense (levels.getLsbD m.val)) →
    ∃ t, exec (.tickBoundary levels) s = .next t ∧
      t.divider = 0 ∧ t.refclk = s.refclk ∧ t.rstnHold = s.rstnHold ∧ t.powerHold = s.powerHold ∧
      t.rawLevels = levels ∧ t.choices = s.choices ∧ t.pending = s.pending ∧ t.postedSources = s.postedSources ∧
      t.hosts = s.hosts ∧ t.session = none ∧ t.policy = s.policy ∧ t.ports = s.ports ∧
      (∀ m, (t.line m).filter = some
        { filtered := levels.getLsbD m.val, candidate := levels.getLsbD m.val, stable := 0
          reference := levels.getLsbD m.val, completes := false }) ∧
      (∀ m, m ≠ n → t.line m = { s.line m with filter := (t.line m).filter }) ∧
      ((s.line n).desc.enabled = false ∨
          ¬ AtActiveLevel (s.line n).desc.sense (levels.getLsbD n.val) ∨
          ((s.line n).desc.group = none ∧ (¬ NoLiveRecord s (.line n) ∨ (s.line n).starved ≠ none)) →
        t.line n = { s.line n with filter := (t.line n).filter } ∧ t.groups = s.groups ∧ SamePool s t) ∧
      ((s.line n).desc.enabled = true → AtActiveLevel (s.line n).desc.sense (levels.getLsbD n.val) →
        ((s.line n).desc.group = none → NoLiveRecord s (.line n) → (s.line n).starved = none →
          t.groups = s.groups ∧
          (LowestFree s u →
            t.line n = { s.line n with filter := (t.line n).filter, seq := (s.line n).seq + 1 } ∧
            EntersPending s t u (s.line n).desc.terms (createdFields (.line n) ((s.line n).seq + 1)
              (s.line n).desc.terms.level 0 none 0) ∧ AttnSettled t) ∧
          ((∀ v, s.occ v ≠ none) →
            t.line n = { s.line n with filter := (t.line n).filter, starved := some 1 } ∧
            SamePool s t)) ∧
        ∀ k, (s.line n).desc.group = some k →
          t.line n = { s.line n with filter := (t.line n).filter } ∧
          MemberTriggered s t n k (s.group k).desc.terms u ∧ OtherGroupsKept k s t ∧ AttnSettled t)

/-! ### Line changes and triggers -/

/-- R16, R18, R25: line changes that fire nothing. Of a disabled source the change moves the filtered level alone, and
the reference level stays; an edge that does not match the sense of an enabled edge source moves the reference level
with it; and an enabled level-sensed source, in a group or not, whose line leaves its active level loses a starved
mark. -/
def Obligations.LineChangesThatFireNothing : Prop :=
  (∀ (s : State) (n : LineId) (f : LineFilter),
    Clocked s → (s.line n).filter = some f → f.completes = true → (s.line n).desc.enabled = false →
    ∃ t, exec (.lineChange n) s = .next t ∧
      t.line n = { s.line n with filter := some { changedFilter f with reference := f.reference } } ∧
      OtherLinesKept n s t ∧ t.postedSources = s.postedSources ∧ t.groups = s.groups ∧
      SamePool s t ∧ t.hosts = s.hosts ∧ Elsewhere s t ∧ AttnSettled t) ∧
  (∀ (s : State) (n : LineId) (f : LineFilter),
    Clocked s → (s.line n).filter = some f → f.completes = true → (s.line n).desc.enabled = true →
    (s.line n).desc.sense.isLevel = false → ¬ MatchingEdge s n f →
    ∃ t, exec (.lineChange n) s = .next t ∧
      t.line n = { s.line n with filter := some (changedFilter f) } ∧
      OtherLinesKept n s t ∧ t.postedSources = s.postedSources ∧ t.groups = s.groups ∧
      SamePool s t ∧ t.hosts = s.hosts ∧ Elsewhere s t ∧ AttnSettled t) ∧
  (∀ (s : State) (n : LineId) (f : LineFilter),
    Clocked s → (s.line n).filter = some f → f.completes = true → (s.line n).desc.enabled = true →
    (s.line n).desc.sense.isLevel = true → ¬ AtActiveLevel (s.line n).desc.sense f.candidate →
    ∃ t, exec (.lineChange n) s = .next t ∧
      t.line n = { s.line n with filter := some (changedFilter f), starved := none } ∧
      OtherLinesKept n s t ∧ t.postedSources = s.postedSources ∧ t.groups = s.groups ∧
      SamePool s t ∧ t.hosts = s.hosts ∧ Elsewhere s t ∧ AttnSettled t)

/-- R16, R17, R32, R34 to R36, R55: a matching edge of a source outside a group, with no PENDING record of
its origin (and no CLAIMED one either, unless the clear policy is ON_CLAIM), creates a record in the lowest
FREE tag. -/
def Obligations.EdgeCreatesARecord : Prop :=
  ∀ (s : State) (n : LineId) (f : LineFilter) (u : Tag),
    MatchingEdge s n f → (s.line n).desc.group = none → (s.line n).starved = none →
    NoPendingRecord s (.line n) →
    ((s.line n).desc.clearPolicy = .onClaim ∨ NoClaimedRecord s (.line n)) → LowestFree s u →
    ∃ t, exec (.lineChange n) s = .next t ∧
      t.line n = { s.line n with filter := some (changedFilter f), seq := (s.line n).seq + 1 } ∧
      OtherLinesKept n s t ∧ t.postedSources = s.postedSources ∧ t.groups = s.groups ∧
      EntersPending s t u (s.line n).desc.terms
        (createdFields (.line n) ((s.line n).seq + 1) (s.line n).desc.terms.level 0 none 0) ∧
      t.hosts = s.hosts ∧ Elsewhere s t ∧ AttnSettled t

/-- R23, R35, R36: a matching edge of a source outside a group that gets no new record. It is counted while
the source is starved; it merges into the origin's PENDING record, or sets Again on the CLAIMED record of an
ON_COMPLETE source; and where a record is needed and no tag is FREE, the source becomes starved. That it merges into
the PENDING record of an ON_COMPLETE source also beside a CLAIMED one is the model's choice (log entry 30). -/
def Obligations.EdgeWithoutANewRecord : Prop :=
  ∀ (s : State) (n : LineId) (f : LineFilter) (u : Tag) (c : Occurrence),
    MatchingEdge s n f → (s.line n).desc.group = none →
    ((s.line n).starved = none → s.occ u = some c) →
    ∃ t, exec (.lineChange n) s = .next t ∧
      OtherLinesKept n s t ∧ t.postedSources = s.postedSources ∧ t.groups = s.groups ∧
      ((s.line n).starved ≠ none →
        t.line n = { s.line n with
          filter := some (changedFilter f), starved := (s.line n).starved.map (fun k => min 255 (k + 1)) } ∧
        SamePool s t ∧ t.hosts = s.hosts ∧ Elsewhere s t ∧ AttnSettled t) ∧
      ((s.line n).starved = none → c.origin = .line n → c.phase.isPending = true →
        (∀ v, v ≠ u → (s.occ v).all (fun d => decide (d.origin ≠ .line n) || d.phase.isClaimed) = true) →
        t.line n = { s.line n with filter := some (changedFilter f) } ∧
        t.record u = { s.record u with occ := some { c with merge := min 255 (c.merge + 1) } } ∧
        OtherRecordsKept u s t ∧ t.lists = s.lists ∧ t.hosts = s.hosts ∧ Elsewhere s t ∧
        AttnSettled t) ∧
      ((s.line n).starved = none → c.origin = .line n → c.phase.isClaimed = true →
        (s.line n).desc.clearPolicy = .onComplete →
        (∀ v, v ≠ u → (s.occ v).all (fun d => decide (d.origin ≠ .line n)) = true) →
        t.line n = { s.line n with filter := some (changedFilter f) } ∧
        t.record u = { s.record u with occ := some { c with again := true } } ∧
        OtherRecordsKept u s t ∧ t.lists = s.lists ∧ t.hosts = s.hosts ∧ Elsewhere s t ∧
        AttnSettled t) ∧
      ((s.line n).starved = none → NoPendingRecord s (.line n) →
        ((s.line n).desc.clearPolicy = .onClaim ∨ NoClaimedRecord s (.line n)) →
        (∀ v, s.occ v ≠ none) →
        t.line n = { s.line n with filter := some (changedFilter f), starved := some 1 } ∧
        SamePool s t ∧ t.hosts = s.hosts ∧ Elsewhere s t ∧ AttnSettled t)

/-- R18, R25: a line change of an enabled, level-sensed source outside a group. To the active level it
creates a record when the origin has no live record and no mark, and does nothing else; away from it, it
clears a starved mark and fires nothing. -/
def Obligations.LevelSourceLineChange : Prop :=
  ∀ (s : State) (n : LineId) (f : LineFilter) (u : Tag),
    Clocked s → (s.line n).filter = some f → f.completes = true → (s.line n).desc.enabled = true →
    (s.line n).desc.sense.isLevel = true → (s.line n).desc.group = none →
    ∃ t, exec (.lineChange n) s = .next t ∧
      OtherLinesKept n s t ∧ t.postedSources = s.postedSources ∧ t.groups = s.groups ∧
      t.hosts = s.hosts ∧ Elsewhere s t ∧ AttnSettled t ∧
      (¬ AtActiveLevel (s.line n).desc.sense f.candidate →
        t.line n = { s.line n with filter := some (changedFilter f), starved := none } ∧
        SamePool s t) ∧
      (AtActiveLevel (s.line n).desc.sense f.candidate →
        ¬ NoLiveRecord s (.line n) ∨ (s.line n).starved ≠ none →
        t.line n = { s.line n with filter := some (changedFilter f) } ∧ SamePool s t) ∧
      (AtActiveLevel (s.line n).desc.sense f.candidate → NoLiveRecord s (.line n) →
        (s.line n).starved = none → LowestFree s u →
        t.line n = { s.line n with filter := some (changedFilter f), seq := (s.line n).seq + 1 } ∧
        EntersPending s t u (s.line n).desc.terms
          (createdFields (.line n) ((s.line n).seq + 1) (s.line n).desc.terms.level 0 none 0)) ∧
      (AtActiveLevel (s.line n).desc.sense f.candidate → NoLiveRecord s (.line n) →
        (s.line n).starved = none → (∀ v, s.occ v ≠ none) →
        t.line n = { s.line n with filter := some (changedFilter f), starved := some 1 } ∧
        SamePool s t)

/-- R16, R18, R101, R102, R106: a member trigger, by a matching edge of an edge-sensed member or by a line change of a
level-sensed member to its active level, taken by the state of the group: discarded when the group is disabled;
otherwise the source joins the collect set, and a record is requested, or the PENDING record's merge count rises, or
nothing more happens. -/
def Obligations.MemberTriggerAtItsGroup : Prop :=
  ∀ (s : State) (n : LineId) (f : LineFilter) (g : GroupId) (u : Tag),
    Clocked s → (s.line n).filter = some f → f.completes = true → (s.line n).desc.enabled = true →
    (MatchingEdge s n f ∨ AtActiveLevel (s.line n).desc.sense f.candidate) →
    (s.line n).desc.group = some g →
    ∃ t, exec (.lineChange n) s = .next t ∧
      t.line n = { s.line n with filter := some (changedFilter f) } ∧ OtherLinesKept n s t ∧
      t.postedSources = s.postedSources ∧ OtherGroupsKept g s t ∧ t.hosts = s.hosts ∧
      Elsewhere s t ∧ AttnSettled t ∧ MemberTriggered s t n g (s.group g).desc.terms u

/-! ### Expiries -/

/-- R56: at the expiry of its window a PENDING_EXCL record becomes PENDING_OPEN in its place, its timer
stopped; no host is told, and ATTN settles. An expiry reaches no other record. That the row changes nothing where no
window is due is the model's reading of it (log entry 3). -/
def Obligations.WindowExpiryOpensTheRecord : Prop :=
  ∀ (s : State) (u : Tag) (c : Occurrence),
    Clocked s → s.occ u = some c →
    ∃ t, exec (.windowExpiry u) s = .next t ∧
      (c.phase = .pendingExcl ∧ (s.record u).timer = .due →
        t.record u = { s.record u with
          timer := .stopped, occ := some { c with phase := .pendingOpen } } ∧
        OtherRecordsKept u s t ∧ t.lists = s.lists ∧ SameTables s t ∧ t.hosts = s.hosts ∧
        Elsewhere s t ∧ AttnSettled t) ∧
      (c.phase ≠ .pendingExcl ∨ (s.record u).timer ≠ .due → t = s)

/-- R41, R43, R44, R90, R91, R45 to R49, R104, R117: the lease of a PRESENT holder's record runs out below the strike limit. The
entry leaves the stack where it stands, REVOKED is placed or dropped, the record returns by its course, whatever its
kind, and the strike count rises to at most 7. ABANDONED and POSTED_ABANDONED follow REVOKED where the record is
abandoned. -/
def Obligations.LeaseExpiryReturnsTheRecord : Prop :=
  ∀ (s : State) (u : Tag) (c : Occurrence) (h : HostId),
    Clocked s → s.occ u = some c → c.phase = .claimed h c.phase.extensions c.phase.members →
    (s.record u).timer = .due → (s.host h).presence = .present →
    (s.policy.strikeLimit.val = 0 ∨ min 7 ((s.host h).strikes + 1) < s.policy.strikeLimit.val) →
    ∃ t, exec (.leaseExpiry u) s = .next t ∧
      ReturnCourse s t h none u c ∧
      (s.enabledOf c.origin = false ∨ c.reoffer + 1 ≤ (s.termsOf c.origin).reofferLimit.val →
        t.host h = { revokedHost s h u c with strikes := min 7 ((s.host h).strikes + 1) } ∧
        OtherHostsKept h s t) ∧
      (s.enabledOf c.origin = true → (s.termsOf c.origin).reofferLimit.val < c.reoffer + 1 →
        t.host h = { toldOfAbandonment s c h (revokedHost s h u c) with
          strikes := min 7 ((s.host h).strikes + 1) } ∧
        ∀ g, g ≠ h → t.host g = toldOfAbandonment s c g (s.host g)) ∧
      (∀ v, (t.record v).epoch = (s.record v).epoch) ∧ Elsewhere s t ∧ AttnSettled t

/-- R91, R92, R123, R132: the lease expiry that brings a PRESENT holder's strike count to the strike limit fences
it: FENCED, floor CLOSED, stack empty, the one FENCED notice in its queue, its session dropped, no window open for it.
HOST_FENCED is the last notice of every other PRESENT or DRAINING host, or is dropped at its full queue. The record of
a stack of one returns by its course (R45 to R49); of a stack of any size every record is back in PENDING where none of
them is withdrawn, abandoned or merged, and then HOST_FENCED is the one notice. -/
def Obligations.LeaseExpiryFencesTheHolder : Prop :=
  ∀ (s : State) (u : Tag) (c : Occurrence) (h : HostId),
    Clocked s → s.occ u = some c → c.phase = .claimed h c.phase.extensions c.phase.members →
    (s.record u).timer = .due → (s.host h).presence = .present → StacksExact s →
    0 < s.policy.strikeLimit.val → s.policy.strikeLimit.val ≤ min 7 ((s.host h).strikes + 1) →
    ∃ t, exec (.leaseExpiry u) s = .next t ∧
      t.host h = { s.host h with
        presence := .fenced, floor := none, strikes := min 7 ((s.host h).strikes + 1), stack := []
        queue := [.fenced (min 7 ((s.host h).strikes + 1))], overflow := false } ∧
      (∀ g, g ≠ h → StandingKept g s t) ∧
      (∀ g, g ≠ h → (s.host g).presence = .present ∨ (s.host g).presence = .draining →
        (s.host g).queue.isPrefixOf (t.host g).queue = true ∧
        ((s.host g).queue.length < (t.host g).queue.length ∧
            (t.host g).queue.getLast? = some (.hostFenced h) ∨
          8 ≤ (t.host g).queue.length ∧ (t.host g).overflow = true)) ∧
      (∀ g, g ≠ h → (s.host g).presence = .absent ∨ (s.host g).presence = .fenced →
        t.host g = s.host g) ∧
      HoldsNothing t h ∧ NoWindowFor t h ∧
      ((∀ e ∈ (s.host h).stack, e.tag = u) → ReturnCourse s t h (some h) u c) ∧
      (AllComeBack s h → AllReturned s t h ∧
        ∀ g, g ≠ h → (s.host g).presence = .present ∨ (s.host g).presence = .draining →
          t.host g = told (s.host g) (.hostFenced h)) ∧
      t.session = (if s.session.any (fun x => decide (x.holder = h)) then none else s.session) ∧
      t.policy = s.policy ∧ (∀ v, (t.record v).epoch = (s.record v).epoch) ∧
      t.ports = s.ports ∧ SameBoard s t ∧ AttnSettled t

/-- R41, R43 to R49, R73, R85, R86, R88, R89, R90, R129: the lease expiry, COMPLETE or HANDBACK that removes the last entry of a
DRAINING host's stack completes its drain: the host is ABSENT with an empty queue. It gains no strike, and a COMPLETE
sets its count to 0. The record returns, is freed or is re-armed, and the reply reports it, as without a drain; that
it is re-armed also where its origin has another PENDING record is log entry 28. -/
def Obligations.TheLastEntryEndsADrain : Prop :=
  (∀ (s : State) (u : Tag) (c : Occurrence) (h : HostId),
    Clocked s → s.occ u = some c → c.phase = .claimed h c.phase.extensions c.phase.members →
    (s.record u).timer = .due → (s.host h).presence = .draining →
    (∀ e ∈ (s.host h).stack, e.tag = u) →
    ∃ t, exec (.leaseExpiry u) s = .next t ∧
      t.host h = { s.host h with presence := .absent, stack := [], queue := [], overflow := false } ∧
      (∀ g, g ≠ h → StandingKept g s t) ∧
      (∀ v, (t.record v).epoch = (s.record v).epoch) ∧
      (t.occ u).any (fun d => d.phase.isClaimed) = false ∧ ReturnCourse s t h none u c ∧
      SameSession s t ∧ t.ports = s.ports ∧ SameBoard s t ∧ AttnSettled t) ∧
  (∀ (s : State) (h : HostId) (rt : RequestTag) (tag epoch : Byte) (u : Tag) (c : Occurrence),
    Serves s h rt (.complete tag epoch) → (s.host h).presence = .draining →
    ValidToken s h tag epoch u → s.occ u = some c → (∀ e ∈ (s.host h).stack, e.tag = u) →
    ∃ t, exec (.complete h rt tag epoch) s = .next t ∧
      t.host h = { s.host h with
        presence := .absent, strikes := 0, stack := [], queue := [], overflow := false } ∧
      (∀ g, g ≠ h → StandingKept g s t) ∧
      (∀ v, (t.record v).epoch = (s.record v).epoch) ∧
      (t.occ u).any (fun d => d.phase.isClaimed) = false ∧
      (¬ ReArms s c.origin c.again → Replies s t h rt (.complete tag epoch) .ok [0, byte u.val]) ∧
      (¬ ReArms s c.origin c.again → TagFreed s t none u c) ∧
      (ReArms s c.origin c.again →
        Replies s t h rt (.complete tag epoch) .ok
          [1, byte u.val, s.seqOf c.origin + 1,
            if WindowHolds s (s.termsOf c.origin) 0 then 1 else 2] ∧
        EntersPending s t u (s.termsOf c.origin)
          { c with
            seq := s.seqOf c.origin + 1, level := (s.termsOf c.origin).level, merge := 0
            again := false, exclusion := 0, reoffer := 0 }) ∧
      SameSession s t ∧ OtherPortsKept h s t ∧ SameBoard s t ∧ AttnSettled t) ∧
  (∀ (s : State) (h : HostId) (rt : RequestTag) (tag epoch : Byte) (u : Tag) (c : Occurrence),
    Serves s h rt (.handback tag epoch) → (s.host h).presence = .draining →
    ValidToken s h tag epoch u → s.occ u = some c → (∀ e ∈ (s.host h).stack, e.tag = u) →
    ∃ t, exec (.handback h rt tag epoch) s = .next t ∧
      t.host h = { s.host h with presence := .absent, stack := [], queue := [], overflow := false } ∧
      (∀ g, g ≠ h → StandingKept g s t) ∧
      (∀ v, (t.record v).epoch = (s.record v).epoch) ∧
      (t.occ u).any (fun d => d.phase.isClaimed) = false ∧ ReturnCourse s t h none u c ∧
      (s.enabledOf c.origin = false →
        Replies s t h rt (.handback tag epoch) .ok [3, byte u.val]) ∧
      (s.enabledOf c.origin = true → (s.termsOf c.origin).reofferLimit.val < c.reoffer + 1 →
        Replies s t h rt (.handback tag epoch) .ok [2, byte u.val]) ∧
      (s.enabledOf c.origin = true → c.reoffer + 1 ≤ (s.termsOf c.origin).reofferLimit.val →
        (∀ v, ∀ d ∈ s.occ v, OnlyPending s c.origin v d →
          Replies s t h rt (.handback tag epoch) .ok [1, byte u.val, byte v.val]) ∧
        (NoPendingRecord s c.origin →
          Replies s t h rt (.handback tag epoch) .ok
            [0, byte u.val,
              (if WindowHolds s (s.termsOf c.origin)
                (returnedFields (s.termsOf c.origin) h c).exclusion then 1 else 2),
              byte (c.reoffer + 1)])) ∧
      SameSession s t ∧ OtherPortsKept h s t ∧ SameBoard s t ∧ AttnSettled t)

/-! ### The host ports -/

/-- R172, R173, R7, R8: a falling edge of chip select begins a transaction, which samples the status byte
field by field and the reply slot and drives MISO at the most significant bit of the status byte; before it MISO is
high-impedance. That a pin already low gives no edge, and that a falling edge in chip reset or before the port
recognises transactions moves the pin alone, is the model's reading (log entry 16); the operand early is log
entry 10. -/
def Obligations.TransactionStartSamplesThePort : Prop :=
  ∀ (s : State) (h : HostId) (early : Bool),
    ∃ t, exec (.transactionStart h early) s = .next t ∧
      OtherPortsKept h s t ∧ OnlyPortsChange s t ∧
      ((s.port h).csLow = true → t.port h = s.port h) ∧
      ((s.port h).csLow = false → s.inReset = true ∨ ((s.port h).recognising = false ∧ early = true) →
        t.port h = { s.port h with csLow := true }) ∧
      ((s.port h).csLow = false → s.inReset = false →
        ((s.port h).recognising = true ∨ early = false) →
        t.port h = { s.port h with
          csLow := true, recognising := true
          transaction := some { status := statusLayout s h, reply := (s.port h).slot, placed := false } } ∧
        (t.port h).misoPin = some ((statusLayout s h).getLsbD 7)) ∧
      ((t.port h).transaction = none → (t.port h).misoPin = none)

/-- R172 to R177, R2: a transaction that carries the frame of any request to an idle port, with any bits
after it: MISO carried the bits of the status byte, of the reply held at its start and of filler, one at each rising
edge of SCK, and is high-impedance again; the request is taken, after every request taken before at any port, or its frame
waits unjudged while REFCLK is stopped; the slot is empty and a reported overrun is cleared. -/
def Obligations.TransactionEndTakesARequest : Prop :=
  ∀ (s : State) (h : HostId) (x : Transaction) (rt : RequestTag) (req : Request) (tail : List Bool),
    (s.port h).csLow = true → (s.port h).transaction = some x → (s.port h).work = .idle →
    ∃ t, exec (.transactionEnd h (bitsOfFrame (requestFrame rt req) ++ tail)) s = .next t ∧
      OtherPortsKept h s t ∧ OnlyPortsChange s t ∧ ∃ k, LaterTurn s k ∧
      t.port h = { s.port h with
        csLow := false, transaction := none, slot := none
        rx := if s.refclk then [] else requestFrame rt req
        work := if s.refclk then .taken rt req k else .unjudged
        overrun := if x.status.getLsbD 1 then false else (s.port h).overrun
        miso := (bitsOfFrame (x.status :: x.reply.getD []) ++
            List.replicate (8 * (requestFrame rt req).length + tail.length) true).take
          (8 * (requestFrame rt req).length + tail.length) } ∧
      (t.port h).misoPin = none

/-- R172 to R176: a transaction that takes no frame. One that carries no whole byte, or 0xFF first, carries
no request; a frame at a busy port is discarded and sets the overrun flag again. Either way the port keeps
its work; a reply of which a byte was clocked leaves the slot, but not one placed since the transaction began; a
reported overrun flag is cleared. That a frame which
waits unjudged for REFCLK stays in the receive buffer is the model's reading of R2 against R174 (log entry 9). -/
def Obligations.TransactionEndWithoutTaking : Prop :=
  ∀ (s : State) (h : HostId) (x : Transaction) (mosi : List Bool),
    (s.port h).csLow = true → (s.port h).transaction = some x →
    (mosi.length < 8 ∨ mosi.take 8 = List.replicate 8 true ∨ (s.port h).work ≠ .idle) →
    ∃ t, exec (.transactionEnd h mosi) s = .next t ∧
      OtherPortsKept h s t ∧ OnlyPortsChange s t ∧
      (t.port h).csLow = false ∧ (t.port h).transaction = none ∧
      (t.port h).recognising = (s.port h).recognising ∧ (t.port h).work = (s.port h).work ∧
      (t.port h).miso = (bitsOfFrame (x.status :: x.reply.getD []) ++
        List.replicate mosi.length true).take mosi.length ∧ (t.port h).misoPin = none ∧
      (t.port h).slot = (if x.reply ≠ none ∧ x.placed = false ∧ 16 ≤ mosi.length then none else (s.port h).slot) ∧
      (mosi.length < 8 ∨ mosi.take 8 = List.replicate 8 true →
        (t.port h).overrun =
          ((s.port h).overrun && !(decide (8 ≤ mosi.length) && x.status.getLsbD 1)) ∧
        (t.port h).rx = if (s.port h).work = .unjudged then (s.port h).rx else []) ∧
      (8 ≤ mosi.length ∧ mosi.take 8 ≠ List.replicate 8 true →
        (t.port h).overrun = true ∧ (t.port h).rx = (s.port h).rx)

/-- R174, R176, R190: a frame whose first two bytes are `command` and `header` at an idle port, judged in
the order of R176 on its length, its CRC byte, its command code and its argument count; and a frame of one
byte. The port becomes busy with the FRAME_ERROR reply, and nothing else in the part changes. -/
def Obligations.RefusedFramesAreAnswered : Prop :=
  ∀ (s : State) (h : HostId) (x : Transaction) (command header : Byte) (rest : List Byte),
    (s.port h).csLow = true → (s.port h).transaction = some x → (s.port h).work = .idle →
    s.refclk = true → command ≠ 0xFF →
    (∃ t, exec (.transactionEnd h (bitsOfFrame [command])) s = .next t ∧
      OnlyPortsChange s t ∧ OtherPortsKept h s t ∧ (t.port h).slot = none ∧
      (t.port h).work = .answered (replyFrame 0 command { code := .frameError, data := [0] })) ∧
    ∃ t, exec (.transactionEnd h (bitsOfFrame (command :: header :: rest))) s = .next t ∧
      OnlyPortsChange s t ∧ OtherPortsKept h s t ∧ (t.port h).slot = none ∧ (t.port h).rx = [] ∧
      (t.port h).overrun = ((s.port h).overrun && !x.status.getLsbD 1) ∧
      (rest.length < header.toNat % 16 + 1 →
        (t.port h).work = .answered (replyFrame (BitVec.ofNat 4 (header.toNat / 16)) command
          { code := .frameError, data := [0] })) ∧
      (header.toNat % 16 + 1 ≤ rest.length →
        rest[header.toNat % 16]? ≠ some (crc8 (command :: header :: rest.take (header.toNat % 16))) →
        (t.port h).work = .answered (replyFrame (BitVec.ofNat 4 (header.toNat / 16)) command
          { code := .frameError, data := [1] })) ∧
      (rest[header.toNat % 16]? = some (crc8 (command :: header :: rest.take (header.toNat % 16))) →
        (∀ row ∈ commandTable, row.1 ≠ command) →
        (t.port h).work = .answered (replyFrame (BitVec.ofNat 4 (header.toNat / 16)) command
          { code := .frameError, data := [2] })) ∧
      (rest[header.toNat % 16]? = some (crc8 (command :: header :: rest.take (header.toNat % 16))) →
        (∃ row ∈ commandTable, row.1 = command ∧ row.2 ≠ header.toNat % 16) →
        (t.port h).work = .answered (replyFrame (BitVec.ofNat 4 (header.toNat / 16)) command
          { code := .frameError, data := [3] }))

/-- R171, R172, R177: the placement puts the waiting reply frame in the slot, where a transaction in progress leaves
it, and ends the busy state; a port with
none to place is left as it is. A taken request that its row has not carried out is carried out first, with
the effect of that row (log entry 7); so a LEAVE of another manner is answered BAD_ARG (R131). That all this happens
with REFCLK stopped as well is the model's choice (log entry 8). -/
def Obligations.ReplyPlacementEndsTheCycle : Prop :=
  (∀ (s : State) (h : HostId) (frame : List Byte),
    s.inReset = false →
    (s.port h).work = .answered frame ∨ (∃ rt req, (s.port h).work = .carried rt req frame) →
    ∃ t, exec (.replyPlacement h) s = .next t ∧
      t.port h = { s.port h with
        work := .idle, slot := some frame
        transaction := (s.port h).transaction.map (fun x => { x with placed := true }) } ∧
      OtherPortsKept h s t ∧
      OnlyPortsChange s t) ∧
  (∀ (s : State) (h : HostId), (s.port h).work = .idle ∨ (s.port h).work = .unjudged →
    exec (.replyPlacement h) s = .next s) ∧
  (∀ (s t : State) (h : HostId) (rt : RequestTag) (req : Request) (turn : Nat) (c : Instr),
    s.inReset = false → (s.port h).work = .taken rt req turn → (s.port h).rx = [] →
    rowRequest c = some (h, rt, req) → exec c s = .next t →
    exec (.replyPlacement h) s = exec (.replyPlacement h) t) ∧
  (∀ (s : State) (h : HostId) (rt : RequestTag) (manner : Byte) (turn : Nat),
    s.inReset = false → (s.port h).work = .taken rt (.leave manner) turn → InTurn s h →
    manner ≠ 0 → manner ≠ 1 →
    (s.host h).presence = .present ∨ (s.host h).presence = .draining →
    ∃ t, exec (.replyPlacement h) s = .next t ∧
      t.port h = { s.port h with
        work := .idle, slot := some (replyFrame rt 0x11 { code := .badArg, data := [] })
        transaction := (s.port h).transaction.map (fun x => { x with placed := true }) } ∧
      OtherPortsKept h s t ∧ OnlyPortsChange s t)

/-- R174, R176, R179, R190: the request frame of every request, with every argument and request tag, passes
the checks of a frame and reads back as that request. -/
def Obligations.RequestFramesReadBack : Prop :=
  ∀ (rt : RequestTag) (req : Request), checkFrame (requestFrame rt req) = .passed rt req

/-- R159, R160, R188, R191: the layouts of descriptors and of the Policy record read back, for every record within
its ranges, whatever the bits of a Group Descriptor that carry nothing. -/
def Obligations.ConfigurationLayoutsReadBack : Prop :=
  (∀ (n : LineId) (d : SourceDescriptor) (v : Table Byte 5), v.toList = d.bytes → LineInRange d →
    parseStageSource (byte n.val) v = some (.line n d)) ∧
  (∀ (n : PostedId) (d : SourceDescriptor) (v : Table Byte 5), v.toList = d.bytes → PostedInRange d →
    parseStageSource (byte (48 + n.val)) v = some (.posted n d)) ∧
  (∀ (g : GroupId) (d : GroupDescriptor) (v : Table Byte 4),
    (v.put 2 (v.look 2 &&& 0x83)).toList = d.bytes → d.terms.route ≠ 0 →
    parseStageGroup (byte g.val) v = some (.group g d)) ∧
  (∀ (p : Policy) (v : Table Byte 12), v.toList = p.bytes → PolicyInRange p →
    parseStagePolicy v = some (.policy p))

/-- R74, R75, R76, R122: requests refused without data or effect. One refused at the presence check is answered with the
presence's code, before any argument or token is looked at; CLAIM with nothing offerable is answered EMPTY; EXTEND,
COMPLETE and HANDBACK from an admitted host with a token that is not valid are answered STALE. -/
def Obligations.RefusalsChangeNothing : Prop :=
  (∀ (s : State) (c : Instr) (h : HostId) (rt : RequestTag) (req : Request) (code : ResultCode),
    rowRequest c = some (h, rt, req) → Serves s h rt req → alwaysTaken req = false →
    ((s.host h).presence = .absent ∧ code = .notJoined ∨
      (s.host h).presence = .fenced ∧ code = .fenced ∨
      (s.host h).presence = .draining ∧ takenWhileDraining req = false ∧ code = .draining) →
    ∃ t, exec c s = .next t ∧ AnswersAlone s t h rt req code []) ∧
  (∀ (s : State) (h : HostId) (rt : RequestTag),
    Serves s h rt .claim → (s.host h).presence = .present →
    (∀ l, ∀ u ∈ s.list l, ¬ Offerable s h u) →
    ∃ t, exec (.claim h rt) s = .next t ∧ AnswersAlone s t h rt .claim .empty []) ∧
  (∀ (s : State) (c : Instr) (h : HostId) (rt : RequestTag) (req : Request) (tag epoch : Byte),
    rowRequest c = some (h, rt, req) →
    (req = .extend tag epoch ∨ req = .complete tag epoch ∨ req = .handback tag epoch) →
    Serves s h rt req → (s.host h).presence = .present ∨ (s.host h).presence = .draining →
    (∀ u, ¬ ValidToken s h tag epoch u) →
    ∃ t, exec c s = .next t ∧ AnswersAlone s t h rt req .stale [])

/-- R2, R176: a request row where its request is not carried out. At an idle port with REFCLK stopped its
frame waits unjudged; where the request was carried out ahead of the row the row changes nothing but to say so; at a
port busy with anything else it is an overrun. That a request row stands for its frame at the port, and that it may
find its request carried out, are the model's choices (log entries 6 and 27). -/
def Obligations.RequestRowsNotCarriedOut : Prop :=
  ∀ (s : State) (c : Instr) (h : HostId) (rt : RequestTag) (req : Request),
    rowRequest c = some (h, rt, req) → s.inReset = false →
    ((s.port h).work = .idle ∧ s.refclk = false ∨
      (s.port h).work ≠ .idle ∧ ∀ turn, (s.port h).work ≠ .taken rt req turn) →
    ∃ t, exec c s = .next t ∧ OtherPortsKept h s t ∧ OnlyPortsChange s t ∧
      ((s.port h).work = .idle →
        t.port h = { s.port h with work := .unjudged, rx := requestFrame rt req, slot := none }) ∧
      (∀ frame, (s.port h).work = .carried rt req frame →
        t.port h = { s.port h with work := .answered frame }) ∧
      ((s.port h).work ≠ .idle → (∀ frame, (s.port h).work ≠ .carried rt req frame) →
        t.port h = { s.port h with overrun := true })

/-- R63, R177: requests of different ports take effect in the order in which they were taken. Where the request taken
first of all waits at port `g`, a request row that is carried out at another port, and a placement at one, act as on the
state in which the request of `g` has been carried out by its row. That it is carried out then at the latest, and that
its row may still follow, is log entry 27. -/
def Obligations.RequestsTakeEffectInOrder : Prop :=
  ∀ (s t : State) (g h : HostId) (rt : RequestTag) (req : Request) (turn : Nat) (c : Instr) (frame : List Byte),
    s.inReset = false → (s.port g).work = .taken rt req turn → (∀ f, f ≠ g → takenBefore s g f = true) →
    rowRequest c = some (g, rt, req) → exec c s = .next t → (t.port g).work = .answered frame → g ≠ h →
    (∀ (c' : Instr) (rt' : RequestTag) (req' : Request),
      rowRequest c' = some (h, rt', req') →
      ((s.port h).work = .idle ∧ s.refclk = true ∨ ∃ k, (s.port h).work = .taken rt' req' k) →
      exec c' s = exec c' (t.setPort g { t.port g with work := .carried rt req frame })) ∧
    (∀ (rt' : RequestTag) (req' : Request) (k : Nat), (s.port h).work = .taken rt' req' k →
      exec (.replyPlacement h) s =
        exec (.replyPlacement h) (t.setPort g { t.port g with work := .carried rt req frame }))

/-! ### Presence -/

/-- R124: JOIN from ABSENT or FENCED: queue and flag cleared, generation advanced, floor CLOSED, strike count
0, PRESENT; the pool is unchanged and nothing is offerable to the host. The reply is that of R126. -/
def Obligations.JoinFromAbsentOrFenced : Prop :=
  ∀ (s : State) (h : HostId) (rt : RequestTag),
    Serves s h rt .join → (s.host h).presence = .absent ∨ (s.host h).presence = .fenced →
    ∃ t, exec (.join h rt) s = .next t ∧
      t.host h = { s.host h with
        presence := .present, floor := none, generation := (s.host h).generation + 1, strikes := 0
        queue := [], overflow := false } ∧
      OtherHostsKept h s t ∧ SameTables s t ∧ SamePool s t ∧ SameBoard s t ∧ SameSession s t ∧
      Replies s t h rt .join .ok [(s.host h).generation + 1, byte h.val, 0x64,
        byte (s.host h).presence.code] ∧
      AttnSettled t ∧ ∀ u, ¬ Offerable t h u

/-- R123, R125, R126: JOIN from PRESENT or DRAINING revokes every record the host holds, drops its session,
empties its queue and starts its membership afresh; the other hosts keep their standing. The record of a stack of one
returns by its course (R45 to R49). -/
def Obligations.RejoinRevokesAndRestarts : Prop :=
  ∀ (s : State) (h : HostId) (rt : RequestTag),
    Serves s h rt .join → (s.host h).presence = .present ∨ (s.host h).presence = .draining →
    StacksExact s →
    ∃ t, exec (.join h rt) s = .next t ∧
      t.host h = { presence := .present, floor := none, generation := (s.host h).generation + 1
                   strikes := 0, stack := [], queue := [], overflow := false } ∧
      (∀ g, g ≠ h → StandingKept g s t) ∧ HoldsNothing t h ∧
      (∀ u, ∀ c ∈ s.occ u, heldBy h c = true → (∀ e ∈ (s.host h).stack, e.tag = u) →
        ReturnCourse s t h none u c) ∧
      (∀ u, (t.record u).epoch = (s.record u).epoch) ∧
      t.session = (if s.session.any (fun x => decide (x.holder = h)) then none else s.session) ∧
      t.policy = s.policy ∧ SameBoard s t ∧
      Replies s t h rt .join .ok [(s.host h).generation + 1, byte h.val, 0x64,
        byte (s.host h).presence.code] ∧
      AttnSettled t

/-- R127, R131, R57: LEAVE GRACEFUL from a PRESENT host: its session dropped, its floor CLOSED; with an empty
stack it becomes ABSENT and its queue is emptied, otherwise it becomes DRAINING; the PENDING_EXCL records
that prefer it open in their places. Every record it holds stays. -/
def Obligations.LeaveGracefulDrainsOrLeaves : Prop :=
  ∀ (s : State) (h : HostId) (rt : RequestTag),
    Serves s h rt (.leave 0) → (s.host h).presence = .present →
    ∃ t, exec (.leaveGraceful h rt) s = .next t ∧
      ((s.host h).stack = [] →
        t.host h = { s.host h with
          presence := .absent, floor := none, queue := [], overflow := false } ∧
        Replies s t h rt (.leave 0) .ok [0, 0]) ∧
      ((s.host h).stack ≠ [] →
        t.host h = { s.host h with presence := .draining, floor := none } ∧
        Replies s t h rt (.leave 0) .ok [2, byte (s.host h).stack.length]) ∧
      OtherHostsKept h s t ∧ t.lists = s.lists ∧ (∀ u, t.record u = openedFor s h u) ∧
      SameTables s t ∧ SameBoard s t ∧ t.policy = s.policy ∧
      t.session = (if s.session.any (fun x => decide (x.holder = h)) then none else s.session) ∧
      AttnSettled t

/-- R123, R130, R131, R57: LEAVE IMMEDIATE from a PRESENT or DRAINING host: every record it holds is
revoked, its session dropped, its queue emptied; it is ABSENT, keeps its strike count and generation, and,
if it was PRESENT, no window stays open for it. The record of a stack of one returns by its course (R45 to R49). -/
def Obligations.LeaveImmediateRevokes : Prop :=
  ∀ (s : State) (h : HostId) (rt : RequestTag),
    Serves s h rt (.leave 1) → (s.host h).presence = .present ∨ (s.host h).presence = .draining →
    StacksExact s →
    ∃ t, exec (.leaveImmediate h rt) s = .next t ∧
      t.host h = { s.host h with
        presence := .absent, floor := none, stack := [], queue := [], overflow := false } ∧
      (∀ g, g ≠ h → StandingKept g s t) ∧ HoldsNothing t h ∧
      (∀ u, ∀ c ∈ s.occ u, heldBy h c = true → (∀ e ∈ (s.host h).stack, e.tag = u) →
        ReturnCourse s t h (if (s.host h).presence = .present then some h else none) u c) ∧
      ((s.host h).presence = .present → NoWindowFor t h) ∧
      (∀ u, (t.record u).epoch = (s.record u).epoch) ∧
      t.session = (if s.session.any (fun x => decide (x.holder = h)) then none else s.session) ∧
      t.policy = s.policy ∧ SameBoard s t ∧
      Replies s t h rt (.leave 1) .ok [0, byte (s.host h).stack.length] ∧ AttnSettled t

/-- R134: SET_FLOOR from a PRESENT host replaces the floor and answers with the floor before and after; a
coding other than 0 to 3 and 0xFF is answered BAD_ARG with no change. Nothing but the floor and ATTN follows. -/
def Obligations.SetFloorActsOnOffersAlone : Prop :=
  ∀ (s : State) (h : HostId) (rt : RequestTag) (floor : Byte),
    Serves s h rt (.setFloor floor) → (s.host h).presence = .present →
    ∃ t, exec (.setFloor h rt floor) s = .next t ∧
      (floor.toNat < 4 ∨ floor = 0xFF →
        t.host h = { s.host h with floor := (t.host h).floor } ∧
        (floor = 0xFF → (t.host h).floor = none) ∧
        (floor.toNat < 4 → (t.host h).floor.any (fun l => decide (l.val = floor.toNat)) = true) ∧
        OtherHostsKept h s t ∧ SameTables s t ∧ SamePool s t ∧ SameBoard s t ∧ SameSession s t ∧
        Replies s t h rt (.setFloor floor) .ok
          [match (s.host h).floor with
            | some l => byte l.val
            | none => 0xFF, floor] ∧
        AttnSettled t) ∧
      (¬ (floor.toNat < 4 ∨ floor = 0xFF) → AnswersAlone s t h rt (.setFloor floor) .badArg [])

/-! ### Requests that only read -/

/-- R182, R69, R192: PEEK from a host in any presence state reports the pending counts, the offerable count,
the host's own context, the pool free count, the session holder and the stack from the bottom, and changes
nothing. -/
def Obligations.PeekReports : Prop :=
  ∀ (s : State) (h : HostId) (rt : RequestTag),
    Serves s h rt .peek →
    ∃ t, exec (.peek h rt) s = .next t ∧
      AnswersAlone s t h rt .peek .ok
        ([byte (s.list 0).length, byte (s.list 1).length, byte (s.list 2).length,
          byte (s.list 3).length,
          byte ((List.finRange 32).countP (fun u => decide (Offerable s h u))),
          byte (s.host h).presence.code, (s.host h).generation,
          (match (s.host h).floor with
            | some l => byte l.val
            | none => 0xFF),
          byte (s.host h).strikes,
          byte ((List.finRange 32).countP (fun u => decide (s.occ u = none))),
          (match s.session with
            | some x => byte x.holder.val
            | none => 0xFF),
          byte (s.host h).stack.length] ++
          (s.host h).stack.reverse.flatMap (fun e => [byte e.tag.val, byte e.level.val]))

/-- R186, R192: READ_RECORD from a host in any presence state reports the named record, absent fields as 0,
and changes nothing; a tag above 31 is answered BAD_ARG. The timer of a FREE record is stopped (R30). -/
def Obligations.ReadRecordReports : Prop :=
  ∀ (s : State) (h : HostId) (rt : RequestTag) (tag : Byte),
    Serves s h rt (.readRecord tag) → TimersByState s →
    ∃ t, exec (.readRecord h rt tag) s = .next t ∧
      (32 ≤ tag.toNat → AnswersAlone s t h rt (.readRecord tag) .badArg []) ∧
      ∀ u : Tag, tag.toNat = u.val →
        AnswersAlone s t h rt (.readRecord tag) .ok
          (match s.occ u with
            | none => [tag, 0, 0, 0, 0, 0, (s.record u).epoch, 0, 0, 0]
            | some c =>
              [tag,
                byte (64 * (match c.phase with
                    | .pendingExcl => 1
                    | .pendingOpen => 2
                    | .claimed _ _ _ => 3) +
                  16 * (match c.origin with
                    | .line _ => 0
                    | .group _ => 1
                    | .posted _ => 2) +
                  (if c.again then 8 else 0) +
                  (if c.posted.any (fun p => p.notify) then 4 else 0) +
                  (if c.phase = .pendingOpen then 0 else 2)),
                byte c.origin.number, c.seq,
                byte (64 * c.level.val + 8 * (c.reoffer % 8) + c.phase.extensions % 8),
                byte c.merge, (s.record u).epoch,
                byte ((match c.phase with
                    | .claimed holder _ _ => 128 + 16 * holder.val
                    | _ => 0) + c.exclusion.toNat)] ++
              (match (s.record u).timer with
                | .running k => bytes16 (BitVec.ofNat 16 k)
                | _ => [0, 0]) ++
              (match c.origin, c.posted, c.phase with
                | .posted _, some p, _ => bytes16 p.payload ++ [byte p.raiser.val]
                | .group _, _, .claimed _ _ members =>
                  byte members.length :: members.map (fun n => byte n.val)
                | _, _, _ => []))

/-- R26, R109, R162, R187, R192: the three reads of committed configuration, from a host in any presence
state, report the committed record with its runtime and change nothing; a number out of range is answered
BAD_ARG. That a line not yet seeded is reported as not standing is the model's reading (log entry 14). -/
def Obligations.ConfigurationReadsReport : Prop :=
  (∀ (s : State) (h : HostId) (rt : RequestTag) (source : Byte),
    Serves s h rt (.readSource source) →
    ∃ t, exec (.readSource h rt source) s = .next t ∧
      (64 ≤ source.toNat → AnswersAlone s t h rt (.readSource source) .badArg []) ∧
      (∀ n : LineId, source.toNat = n.val →
        AnswersAlone s t h rt (.readSource source) .ok
          (source :: (s.line n).desc.bytes ++ [(s.line n).seq, byte ((s.line n).starved.getD 0),
            byte ((if (s.line n).starved = none then 0 else 128) +
              32 * (match (s.line n).filter with
                | none => 2
                | some f => if f.filtered then 1 else 0) +
              (if (s.line n).filter.any (fun f => decide (f.candidate ≠ f.filtered)) then 16 else 0) +
              (if (s.line n).filter.any (fun f =>
                decide (AtActiveLevel (s.line n).desc.sense f.filtered)) then 8 else 0))])) ∧
      ∀ n : PostedId, source.toNat = 48 + n.val →
        AnswersAlone s t h rt (.readSource source) .ok
          (source :: (s.posted n).desc.bytes ++ [(s.posted n).seq, 0, 96])) ∧
  (∀ (s : State) (h : HostId) (rt : RequestTag) (group : Byte),
    Serves s h rt (.readGroup group) →
    ∃ t, exec (.readGroup h rt group) s = .next t ∧
      (8 ≤ group.toNat → AnswersAlone s t h rt (.readGroup group) .badArg []) ∧
      ∀ g : GroupId, group.toNat = g.val →
        AnswersAlone s t h rt (.readGroup group) .ok
          (group :: (s.group g).desc.bytes ++
            [(s.group g).seq,
              byte ((if (s.group g).starved then 128 else 0) + (s.group g).collect.length),
              (match (s.group g).live with
                | some u => byte u.val
                | none => 0xFF),
              byte (s.membersOf g).length] ++
            (s.membersOf g).map (fun n => byte n.val) ++
            [byte ((List.range (s.membersOf g).length).map (fun i =>
              if (s.membersOf g)[i]?.any (fun n => decide (n ∈ (s.group g).collect)) then 2 ^ i
              else 0)).sum])) ∧
  (∀ (s : State) (h : HostId) (rt : RequestTag),
    Serves s h rt .readPolicy →
    ∃ t, exec (.readPolicy h rt) s = .next t ∧
      AnswersAlone s t h rt .readPolicy .ok
        (bytes16 (s.policy.lease.look 0) ++ bytes16 (s.policy.lease.look 1) ++
          bytes16 (s.policy.lease.look 2) ++ bytes16 (s.policy.lease.look 3) ++
          [byte s.policy.extensionLimit.val, byte s.policy.strikeLimit.val] ++
          bytes16 s.policy.sessionTimeout))

/-! ### Claims, leases and returns -/

/-- R60, R62, R77 to R79: CLAIM from a host takes the record of the most urgent list that holds one offerable
to it, nearest the head. It becomes CLAIMED at the next epoch with its lease started and its entry pushed;
everything else of it is kept and reported. Records of groups are stated next. -/
def Obligations.ClaimTakesTheSelectedRecord : Prop :=
  ∀ (s : State) (h : HostId) (rt : RequestTag) (u : Tag) (c : Occurrence) (before after : List Tag),
    Serves s h rt .claim → s.occ u = some c → Offerable s h u →
    s.list c.level = before ++ u :: after → u ∉ after →
    (∀ v ∈ before, ¬ Offerable s h v) →
    (∀ l, l < c.level → ∀ v ∈ s.list l, ¬ Offerable s h v) →
    (∀ g, c.origin ≠ .group g) → ((∃ n, c.origin = .posted n) ↔ c.posted ≠ none) →
    ∃ t, exec (.claim h rt) s = .next t ∧
      t.record u = {
        epoch := (s.record u).epoch + 1
        timer := .running (s.policy.lease.look (s.termsOf c.origin).leaseClass).toNat
        occ := some { c with phase := .claimed h 0 [] } } ∧
      OtherRecordsKept u s t ∧ t.list c.level = before ++ after ∧
      (∀ l, l ≠ c.level → t.list l = s.list l) ∧
      t.host h = { s.host h with stack := ⟨u, c.level⟩ :: (s.host h).stack } ∧
      OtherHostsKept h s t ∧ SameTables s t ∧ SameBoard s t ∧ SameSession s t ∧
      Replies s t h rt .claim .ok
        ([byte u.val, (s.record u).epoch + 1, (if c.posted = none then 0 else 2),
          byte c.origin.number, c.seq, byte c.level.val, byte c.merge, byte c.reoffer] ++
          bytes16 (s.policy.lease.look (s.termsOf c.origin).leaseClass) ++
          (match c.posted with
            | some p => bytes16 p.payload ++ [byte p.raiser.val]
            | none => [])) ∧
      AttnSettled t

/-- R60, R62, R77, R79, R103, R21: the claim of a group's record, selected as stated above, takes the collect set as its members, in the reply and
in the record, and leaves the collect set with the standing level-sensed enabled members alone, when the
group is enabled and its record is its live record. -/
def Obligations.ClaimTakesTheGroupSnapshot : Prop :=
  ∀ (s : State) (h : HostId) (rt : RequestTag) (u : Tag) (c : Occurrence) (g : GroupId)
    (before after : List Tag),
    Serves s h rt .claim → s.occ u = some c → Offerable s h u → c.origin = .group g →
    s.list c.level = before ++ u :: after → u ∉ after →
    (∀ v ∈ before, ¬ Offerable s h v) →
    (∀ l, l < c.level → ∀ v ∈ s.list l, ¬ Offerable s h v) →
    (s.group g).desc.enabled = true → (s.group g).starved = false → (s.group g).live = some u →
    ∃ t, exec (.claim h rt) s = .next t ∧
      t.record u = {
        epoch := (s.record u).epoch + 1
        timer := .running (s.policy.lease.look (s.group g).desc.terms.leaseClass).toNat
        occ := some { c with phase := .claimed h 0 (s.group g).collect } } ∧
      OtherRecordsKept u s t ∧ t.list c.level = before ++ after ∧
      (∀ l, l ≠ c.level → t.list l = s.list l) ∧
      t.host h = { s.host h with stack := ⟨u, c.level⟩ :: (s.host h).stack } ∧
      OtherHostsKept h s t ∧ SameSources s t ∧ OtherGroupsKept g s t ∧
      t.group g = { s.group g with collect := (t.group g).collect } ∧
      (∀ n, n ∈ (t.group g).collect ↔
        ((s.line n).desc.group = some g ∧ (s.line n).desc.enabled = true ∧
          (s.line n).filter.any (fun f =>
            decide (AtActiveLevel (s.line n).desc.sense f.filtered)) = true)) ∧
      (t.group g).collect.Pairwise (fun a b => a < b) ∧
      SameBoard s t ∧ SameSession s t ∧
      Replies s t h rt .claim .ok
        ([byte u.val, (s.record u).epoch + 1, 1, byte (64 + g.val), c.seq, byte c.level.val,
          byte c.merge, byte c.reoffer] ++
          bytes16 (s.policy.lease.look (s.group g).desc.terms.leaseClass) ++
          byte (s.group g).collect.length :: (s.group g).collect.map (fun n => byte n.val)) ∧
      AttnSettled t

/-- R82 to R84: EXTEND with a valid token. Below the extension limit the lease is restarted for the duration
of the governing class as now committed and the extension count rises by one; at or above it the request is
answered LIMIT and changes nothing. -/
def Obligations.ExtendRestartsTheLease : Prop :=
  ∀ (s : State) (h : HostId) (rt : RequestTag) (tag epoch : Byte) (u : Tag) (c : Occurrence),
    Serves s h rt (.extend tag epoch) →
    (s.host h).presence = .present ∨ (s.host h).presence = .draining →
    ValidToken s h tag epoch u → s.occ u = some c →
    ∃ t, exec (.extend h rt tag epoch) s = .next t ∧
      (c.phase.extensions < s.policy.extensionLimit.val →
        t.record u = { s.record u with
          timer := .running (s.policy.lease.look (s.termsOf c.origin).leaseClass).toNat
          occ := some { c with phase := .claimed h (c.phase.extensions + 1) c.phase.members } } ∧
        OtherRecordsKept u s t ∧ t.lists = s.lists ∧ t.hosts = s.hosts ∧ SameTables s t ∧
        SameBoard s t ∧ SameSession s t ∧ t.attn = s.attn ∧
        Replies s t h rt (.extend tag epoch) .ok
          (bytes16 (s.policy.lease.look (s.termsOf c.origin).leaseClass) ++
            [byte (c.phase.extensions + 1), byte s.policy.extensionLimit.val])) ∧
      (s.policy.extensionLimit.val ≤ c.phase.extensions →
        AnswersAlone s t h rt (.extend tag epoch) .limit
          ([byte c.phase.extensions, byte s.policy.extensionLimit.val] ++
            (match (s.record u).timer with
              | .running k => bytes16 (BitVec.ofNat 16 k)
              | _ => [0, 0])))

/-- R85, R39, R41, R43, R44, R86, R116: COMPLETE of a record that the re-arm check does not keep,
where it ends no drain. The entry leaves the stack, the strike count is 0 and the record is freed; a raiser that asked
and is PRESENT or DRAINING gets POSTED_DONE. Where an origin is starved, the freed tag is granted to the first in the
grant order. -/
def Obligations.CompleteFreesTheRecord : Prop :=
  ∀ (s : State) (h : HostId) (rt : RequestTag) (tag epoch : Byte) (u : Tag) (c : Occurrence),
    Serves s h rt (.complete tag epoch) → StaysJoined s h u →
    ValidToken s h tag epoch u → s.occ u = some c → ¬ ReArms s c.origin c.again →
    ∃ t, exec (.complete h rt tag epoch) s = .next t ∧
      SameBoard s t ∧ SameSession s t ∧
      Replies s t h rt (.complete tag epoch) .ok [0, byte u.val] ∧ AttnSettled t ∧ TagFreed s t none u c ∧
      ((∀ p : PostedFields, c.posted = some p → p.notify = true →
          (∀ m, c.origin ≠ .posted m) ∨ (s.host p.raiser).presence = .absent ∨
            (s.host p.raiser).presence = .fenced) →
        t.host h = { s.host h with
          stack := (s.host h).stack.filter (fun e => decide (e.tag ≠ u)), strikes := 0 } ∧
        OtherHostsKept h s t) ∧
      (∀ (m : PostedId) (p : PostedFields), c.origin = .posted m → c.posted = some p →
        p.notify = true → p.raiser ≠ h →
        (s.host p.raiser).presence = .present ∨ (s.host p.raiser).presence = .draining →
        NoticePlaced s t p.raiser (.postedDone m c.seq h) ∧
        t.host h = { s.host h with
          stack := (s.host h).stack.filter (fun e => decide (e.tag ≠ u)), strikes := 0 } ∧
        ∀ g, g ≠ h → g ≠ p.raiser → t.host g = s.host g) ∧
      (∀ (m : PostedId) (p : PostedFields), c.origin = .posted m → c.posted = some p →
        p.notify = true → p.raiser = h →
        OtherHostsKept h s t ∧
        ((s.host h).queue.length < 8 →
          t.host h = { s.host h with
            stack := (s.host h).stack.filter (fun e => decide (e.tag ≠ u)), strikes := 0
            queue := (s.host h).queue ++ [.postedDone m c.seq h] }) ∧
        (8 ≤ (s.host h).queue.length →
          t.host h = { s.host h with
            stack := (s.host h).stack.filter (fun e => decide (e.tag ≠ u)), strikes := 0
            overflow := true }))

/-- R85, R39, R40, R86: COMPLETE of a record that the re-arm check keeps, where it ends no drain: a new
occurrence of the origin enters PENDING in the same tag, with the next seq and fresh counts. That it does so also where
the origin has another PENDING record, against R34, is the model's choice (log entry 28). -/
def Obligations.CompleteRearmsTheRecord : Prop :=
  ∀ (s : State) (h : HostId) (rt : RequestTag) (tag epoch : Byte) (u : Tag) (c : Occurrence),
    Serves s h rt (.complete tag epoch) → StaysJoined s h u →
    ValidToken s h tag epoch u → s.occ u = some c → ReArms s c.origin c.again →
    ∃ t, exec (.complete h rt tag epoch) s = .next t ∧
      EntersPending s t u (s.termsOf c.origin)
        { c with
          seq := s.seqOf c.origin + 1, level := (s.termsOf c.origin).level, merge := 0
          again := false, exclusion := 0, reoffer := 0 } ∧
      t.host h = { s.host h with
        stack := (s.host h).stack.filter (fun e => decide (e.tag ≠ u)), strikes := 0 } ∧
      OtherHostsKept h s t ∧ t.postedSources = s.postedSources ∧
      (∀ n, t.line n = if c.origin = .line n then { s.line n with seq := (s.line n).seq + 1 }
        else s.line n) ∧
      (∀ g, t.group g = if c.origin = .group g then { s.group g with seq := (s.group g).seq + 1 }
        else s.group g) ∧
      SameBoard s t ∧ SameSession s t ∧
      Replies s t h rt (.complete tag epoch) .ok
        [1, byte u.val, s.seqOf c.origin + 1,
          if WindowHolds s (s.termsOf c.origin) 0 then 1 else 2] ∧
      AttnSettled t

/-- R24, R88, R45, R47, R49, R89, R104: HANDBACK, where it ends no drain, of a record within its reoffer limit, whose
origin is enabled with no other PENDING record. The record returns to PENDING with the host excluded. A starved source
hands over its starved-trigger count, which raises the merge count to at most 255, its mark is cleared and no other
grant is made; a group takes back the members that are still enabled members. No strike and no notice. -/
def Obligations.HandbackReturnsToPending : Prop :=
  ∀ (s : State) (h : HostId) (rt : RequestTag) (tag epoch : Byte) (u : Tag) (c : Occurrence),
    Serves s h rt (.handback tag epoch) → StaysJoined s h u →
    ValidToken s h tag epoch u → s.occ u = some c → s.enabledOf c.origin = true →
    c.reoffer + 1 ≤ (s.termsOf c.origin).reofferLimit.val → NoPendingRecord s c.origin →
    ∃ t, exec (.handback h rt tag epoch) s = .next t ∧
      EntersPending s t u (s.termsOf c.origin) (comesBack s h c) ∧ TablesAfterReturn s t c ∧
      t.host h = { s.host h with
        stack := (s.host h).stack.filter (fun e => decide (e.tag ≠ u)) } ∧
      OtherHostsKept h s t ∧ SameBoard s t ∧ SameSession s t ∧
      Replies s t h rt (.handback tag epoch) .ok
        [0, byte u.val,
          (if WindowHolds s (s.termsOf c.origin)
            (excludedAfter (s.termsOf c.origin).route (c.exclusion ||| hostBit h)) then 1 else 2),
          byte (c.reoffer + 1)] ∧
      AttnSettled t

/-- R41, R43 to R46, R89, R104, R117, R142, R144: HANDBACK, where it ends no drain, of a record that is withdrawn, its
origin being disabled, or abandoned, the reoffer limit being passed. Withdrawn it is freed with no notice; abandoned it
is freed, ABANDONED goes to every host that is PRESENT and routed, and POSTED_ABANDONED after it to a raiser that asked.
Either way the freed tag is granted where an origin is starved. After that a level-sensed source that still stands fires
again, and a group with a non-empty collect set requests a record; an edge source and a posted source do not. -/
def Obligations.HandbackWithdrawsOrAbandons : Prop :=
  (∀ (s : State) (h : HostId) (rt : RequestTag) (tag epoch : Byte) (u : Tag) (c : Occurrence),
    Serves s h rt (.handback tag epoch) → StaysJoined s h u →
    ValidToken s h tag epoch u → s.occ u = some c → s.enabledOf c.origin = false →
    ∃ t, exec (.handback h rt tag epoch) s = .next t ∧
      TagFreed s t none u c ∧
      t.host h = { s.host h with
        stack := (s.host h).stack.filter (fun e => decide (e.tag ≠ u)) } ∧
      OtherHostsKept h s t ∧ SameBoard s t ∧ SameSession s t ∧ AttnSettled t ∧
      Replies s t h rt (.handback tag epoch) .ok [3, byte u.val]) ∧
  (∀ (s : State) (h : HostId) (rt : RequestTag) (tag epoch : Byte) (u : Tag) (c : Occurrence),
    Serves s h rt (.handback tag epoch) → StaysJoined s h u →
    ValidToken s h tag epoch u → s.occ u = some c → s.enabledOf c.origin = true →
    (s.termsOf c.origin).reofferLimit.val < c.reoffer + 1 →
    ∃ t, exec (.handback h rt tag epoch) s = .next t ∧
      AbandonedPool s t none u c ∧ (∀ g, t.host g = abandonedHost s h u c g) ∧
      SameBoard s t ∧ SameSession s t ∧ AttnSettled t ∧
      Replies s t h rt (.handback tag epoch) .ok [2, byte u.val])

/-- R41, R43, R44, R47, R48, R89: HANDBACK, where it ends no drain, of a record whose origin already has the PENDING
record `v` merges into it: the counts add, Again counting as one more merged trigger, the exclusion sets unite, and it
opens if the union now holds its preferred host; the returning record is freed, and its tag granted where an origin is
starved. -/
def Obligations.HandbackMergesIntoThePendingRecord : Prop :=
  ∀ (s : State) (h : HostId) (rt : RequestTag) (tag epoch : Byte) (u v : Tag) (c d : Occurrence)
    (n : LineId),
    Serves s h rt (.handback tag epoch) → StaysJoined s h u →
    ValidToken s h tag epoch u → s.occ u = some c → c.origin = .line n →
    (s.line n).desc.enabled = true → c.reoffer + 1 ≤ (s.line n).desc.terms.reofferLimit.val →
    s.occ v = some d → OnlyPending s (.line n) v d →
    ∃ t, exec (.handback h rt tag epoch) s = .next t ∧
      TagAfterFreeing s t none u ∧ SourcesAfterFreeing s t ∧
      (∀ g, t.group g = groupAfterFreeing s u (.line n) g) ∧
      (∀ merged, merged = min 255 (d.merge + ((if c.again then min 255 (c.merge + 1) else c.merge) + 1)) →
        ∀ union, union = excludedAfter (s.line n).desc.terms.route
          (d.exclusion ||| excludedAfter (s.line n).desc.terms.route (c.exclusion ||| hostBit h)) →
        ((s.line n).desc.terms.preferred.any (fun p => hasHost union p) = false →
          t.record v = { s.record v with occ := some { d with
            merge := merged, reoffer := max d.reoffer (c.reoffer + 1), exclusion := union } }) ∧
        ((s.line n).desc.terms.preferred.any (fun p => hasHost union p) = true →
          t.record v = { s.record v with
            timer := if d.phase = .pendingExcl then .stopped else (s.record v).timer
            occ := some { d with
              merge := merged, reoffer := max d.reoffer (c.reoffer + 1), exclusion := union
              phase := .pendingOpen } })) ∧
      (∀ w, w ≠ u → w ≠ v → t.record w = s.record w) ∧
      t.host h = { s.host h with
        stack := (s.host h).stack.filter (fun e => decide (e.tag ≠ u)) } ∧
      OtherHostsKept h s t ∧ SameBoard s t ∧ SameSession s t ∧
      Replies s t h rt (.handback tag epoch) .ok [1, byte u.val, byte v.val] ∧ AttnSettled t

/-! ### Posted events and notices -/

/-- R111, R112, R33: RAISE from a PRESENT host, judged in the order of R111: BAD_ARG, DISABLED, OCCUPIED and
NO_RECORD change nothing; otherwise a POSTED record is created in the lowest FREE tag, its raiser excluded
where the source excludes it. -/
def Obligations.RaiseIsJudgedInOrder : Prop :=
  ∀ (s : State) (h : HostId) (rt : RequestTag) (source : Byte) (payload : BitVec 16) (notify : Byte)
    (n : PostedId) (u : Tag) (c : Occurrence),
    Serves s h rt (.raise source payload notify) → (s.host h).presence = .present →
    ∃ t, exec (.raise h rt source payload notify) s = .next t ∧
      (¬ (48 ≤ source.toNat ∧ source.toNat < 64) ∨ ¬ (notify = 0 ∨ notify = 1) →
        AnswersAlone s t h rt (.raise source payload notify) .badArg []) ∧
      (source.toNat = 48 + n.val → notify = 0 ∨ notify = 1 →
        ((s.posted n).desc.enabled = false →
          AnswersAlone s t h rt (.raise source payload notify) .disabled []) ∧
        ((s.posted n).desc.enabled = true → s.occ u = some c → c.origin = .posted n →
          (∀ v, v < u → (s.occ v).all (fun d => decide (d.origin ≠ .posted n)) = true) →
          AnswersAlone s t h rt (.raise source payload notify) .occupied [byte u.val, c.seq]) ∧
        ((s.posted n).desc.enabled = true → NoLiveRecord s (.posted n) → (∀ v, s.occ v ≠ none) →
          AnswersAlone s t h rt (.raise source payload notify) .noRecord []) ∧
        ((s.posted n).desc.enabled = true → NoLiveRecord s (.posted n) → LowestFree s u →
          EntersPending s t u (s.posted n).desc.terms
            (createdFields (.posted n) ((s.posted n).seq + 1) (s.posted n).desc.terms.level 0
              (some { payload := payload, raiser := h, notify := decide (notify = 1) })
              (if (s.posted n).desc.selfExclude then
                excludedAfter (s.posted n).desc.terms.route (hostBit h) else 0)) ∧
          t.posted n = { s.posted n with seq := (s.posted n).seq + 1 } ∧
          (∀ m, m ≠ n → t.posted m = s.posted m) ∧ t.lineSources = s.lineSources ∧
          t.groups = s.groups ∧ t.hosts = s.hosts ∧ SameBoard s t ∧ SameSession s t ∧
          Replies s t h rt (.raise source payload notify) .ok [byte u.val, (s.posted n).seq + 1] ∧
          AttnSettled t))

/-- R146, R147, R192: TAKE_NOTICE from a host in any presence state removes and returns the oldest notice,
with the remaining count and the overflow flag as it stood; an empty queue is answered EMPTY with the flag.
Either way the flag is cleared. -/
def Obligations.TakeNoticeReturnsTheOldest : Prop :=
  ∀ (s : State) (h : HostId) (rt : RequestTag),
    Serves s h rt .takeNotice →
    ∃ t, exec (.takeNotice h rt) s = .next t ∧
      t.host h = { s.host h with queue := (s.host h).queue.tail, overflow := false } ∧
      OtherHostsKept h s t ∧ SameTables s t ∧ SamePool s t ∧ SameBoard s t ∧ SameSession s t ∧
      ((s.host h).queue = [] → t.attn = s.attn ∧
        Replies s t h rt .takeNotice .empty [0, if (s.host h).overflow then 1 else 0]) ∧
      ((s.host h).queue ≠ [] → AttnSettled t ∧
        Replies s t h rt .takeNotice .ok
          ((match (s.host h).queue.head? with
            | none => []
            | some (.revoked u o q) => [1, byte u.val, byte o.number, q]
            | some (.hostFenced g) => [2, byte g.val, 0, 0]
            | some (.fenced k) => [3, byte k, 0, 0]
            | some (.abandoned o q l) => [4, byte o.number, q, byte l.val]
            | some (.postedDone n q g) => [5, byte (48 + n.val), q, byte g.val]
            | some (.postedAbandoned n q) => [6, byte (48 + n.val), q, 0]
            | some (.configCommitted g k) => [7, byte g.val, byte k, 0]
            | some (.sessionExpired k) => [8, byte k, 0, 0]) ++
            [byte ((s.host h).queue.length - 1), if (s.host h).overflow then 1 else 0]))

/-! ### Configuration sessions -/

/-- R154: OPEN_SESSION from a PRESENT host: it opens an IDLE session with an empty list, restarts the timer
of its own, and is answered HELD with the holder's number where another host holds it. -/
def Obligations.OpenSessionByItsState : Prop :=
  ∀ (s : State) (h : HostId) (rt : RequestTag),
    Serves s h rt .openSession → (s.host h).presence = .present →
    ∃ t, exec (.openSession h rt) s = .next t ∧
      SameTables s t ∧ SamePool s t ∧ t.hosts = s.hosts ∧ t.attn = s.attn ∧ SameBoard s t ∧
      t.policy = s.policy ∧
      (s.session = none →
        t.session = some { holder := h, timer := .running s.policy.sessionTimeout.toNat
                           staging := [] } ∧
        Replies s t h rt .openSession .ok (bytes16 s.policy.sessionTimeout ++ [0])) ∧
      (∀ x ∈ s.session, x.holder = h →
        t.session = some { x with timer := .running s.policy.sessionTimeout.toNat } ∧
        Replies s t h rt .openSession .ok
          (bytes16 s.policy.sessionTimeout ++ [byte x.staging.length])) ∧
      (∀ x ∈ s.session, x.holder ≠ h →
        t.session = s.session ∧ Replies s t h rt .openSession .held [byte x.holder.val])

/-- R153, R158 to R160: session requests that are refused. From a host that does not hold the OPEN session
they are answered NO_SESSION and change nothing. From the holder, a STAGE whose bytes lie outside the ranges
of its record is answered BAD_ARG; it restarts the timer and changes nothing else. -/
def Obligations.RefusedSessionRequests : Prop :=
  (∀ (s : State) (c : Instr) (h : HostId) (rt : RequestTag) (req : Request),
    rowRequest c = some (h, rt, req) → Serves s h rt req → (s.host h).presence = .present →
    (∃ n v, req = .stageSource n v) ∨ (∃ g v, req = .stageGroup g v) ∨
      (∃ v, req = .stagePolicy v) ∨ req = .commit ∨ req = .discard →
    s.session.any (fun x => decide (x.holder = h)) = false →
    ∃ t, exec c s = .next t ∧ AnswersAlone s t h rt req .noSession []) ∧
  (∀ (s : State) (c : Instr) (h : HostId) (rt : RequestTag) (req : Request) (x : Session),
    rowRequest c = some (h, rt, req) → Serves s h rt req → (s.host h).presence = .present →
    s.session = some x → x.holder = h →
    ((∃ (n : Byte) (v : Table Byte 5), req = .stageSource n v ∧
        (64 ≤ n.toNat ∨ 4 < (v.look 0).toNat / 4 % 8 ∨ (v.look 1).toNat / 16 = 0 ∨
          (4 ≤ (v.look 1).toNat % 16 ∧ (v.look 1).toNat % 16 < 15) ∨ 8 ≤ (v.look 2).toNat % 16 ∨
          (8 ≤ (v.look 3).toNat / 16 ∧ (v.look 3).toNat / 16 < 15) ∨ 4 ≤ (v.look 3).toNat % 16 ∨
          ((v.look 0).getLsbD 6 = true ∧ (3 ≤ (v.look 0).toNat / 4 % 8 ∨ 48 ≤ n.toNat)))) ∨
      (∃ (g : Byte) (v : Table Byte 4), req = .stageGroup g v ∧
        (8 ≤ g.toNat ∨ 4 ≤ (v.look 0).toNat / 16 ∨ 8 ≤ (v.look 0).toNat % 16 ∨
          (v.look 1).toNat / 16 = 0 ∨
          (4 ≤ (v.look 1).toNat % 16 ∧ (v.look 1).toNat % 16 < 15))) ∨
      (∃ (v : Table Byte 12), req = .stagePolicy v ∧
        ((v.look 0 = 0 ∧ v.look 1 = 0) ∨ (v.look 2 = 0 ∧ v.look 3 = 0) ∨
          (v.look 4 = 0 ∧ v.look 5 = 0) ∨ (v.look 6 = 0 ∧ v.look 7 = 0) ∨ 8 ≤ (v.look 8).toNat ∨
          8 ≤ (v.look 9).toNat ∨ 256 * (v.look 10).toNat + (v.look 11).toNat < 1000))) →
    ∃ t, exec c s = .next t ∧
      t.session = some { x with timer := .running s.policy.sessionTimeout.toNat } ∧
      t.policy = s.policy ∧ SameTables s t ∧ SamePool s t ∧ t.hosts = s.hosts ∧ t.attn = s.attn ∧
      SameBoard s t ∧ Replies s t h rt req .badArg [])

/-- R153, R158: a STAGE request of a record within its ranges from the holder restarts the timer. It replaces
the entry of its target in its place, or appends one while fewer than 8 are staged, or is answered
STAGING_FULL. The bits of a Group Descriptor that carry nothing may have any value. -/
def Obligations.StagingPlacesAnEntry : Prop :=
  ∀ (s : State) (c : Instr) (h : HostId) (rt : RequestTag) (req : Request) (x : Session) (e : StagedEntry),
    rowRequest c = some (h, rt, req) → Serves s h rt req → (s.host h).presence = .present →
    s.session = some x → x.holder = h →
    ((∃ n d v, req = .stageSource (byte n.val) v ∧ v.toList = d.bytes ∧ LineInRange d ∧
        e = .line n d) ∨
      (∃ n d v, req = .stageSource (byte (48 + n.val)) v ∧ v.toList = d.bytes ∧ PostedInRange d ∧
        e = .posted n d) ∨
      (∃ g d v, req = .stageGroup (byte g.val) v ∧ (v.put 2 (v.look 2 &&& 0x83)).toList = d.bytes ∧
        d.terms.route ≠ 0 ∧
        e = .group g d) ∨
      (∃ p v, req = .stagePolicy v ∧ v.toList = p.bytes ∧ PolicyInRange p ∧ e = .policy p)) →
    ∃ t, exec c s = .next t ∧
      t.policy = s.policy ∧ SameTables s t ∧ SamePool s t ∧ t.hosts = s.hosts ∧ t.attn = s.attn ∧
      SameBoard s t ∧
      (∀ (before after : List StagedEntry) (old : StagedEntry),
        x.staging = before ++ old :: after → old.sameTarget e = true →
        (∀ f ∈ before, f.sameTarget e = false) →
        t.session = some { x with
          timer := .running s.policy.sessionTimeout.toNat, staging := before ++ e :: after } ∧
        Replies s t h rt req .ok [byte before.length, byte x.staging.length]) ∧
      ((∀ f ∈ x.staging, f.sameTarget e = false) → x.staging.length < 8 →
        t.session = some { x with
          timer := .running s.policy.sessionTimeout.toNat, staging := x.staging ++ [e] } ∧
        Replies s t h rt req .ok [byte x.staging.length, byte (x.staging.length + 1)]) ∧
      ((∀ f ∈ x.staging, f.sameTarget e = false) → 8 ≤ x.staging.length →
        t.session = some { x with timer := .running s.policy.sessionTimeout.toNat } ∧
        Replies s t h rt req .stagingFull [])

/-- R163, R164, R168: COMMIT from the holder. If an entry fails a check, the first failing one is reported
with its reason and nothing is applied but the restart of the timer. Otherwise every staged record is
committed, every other target keeps its record, the session closes, CONFIG_COMMITTED goes to every other
PRESENT host, and no CLAIMED record changes but by its Again mark. That an entry for a posted source in an overfull
group is reported GROUP_FULL is the model's reading of the order of the checks (log entry 20). -/
def Obligations.CommitIsCheckedThenApplied : Prop :=
  ∀ (s : State) (h : HostId) (rt : RequestTag) (x : Session),
    Serves s h rt .commit → (s.host h).presence = .present → s.session = some x → x.holder = h →
    x.staging.Pairwise (fun a b => a.sameTarget b = false) →
    ∃ t, exec (.commit h rt) s = .next t ∧ SameBoard s t ∧
      (∀ (i why : Nat), i < x.staging.length →
        x.staging[i]?.bind (failsCheck s x.staging) = some why →
        (∀ j, j < i → x.staging[j]?.bind (failsCheck s x.staging) = none) →
        t.session = some { x with timer := .running s.policy.sessionTimeout.toNat } ∧
        t.policy = s.policy ∧ SameTables s t ∧ SamePool s t ∧ t.hosts = s.hosts ∧ t.attn = s.attn ∧
        Replies s t h rt .commit .badConfig [byte i, byte why]) ∧
      ((∀ e ∈ x.staging, failsCheck s x.staging e = none) →
        t.session = none ∧ AttnSettled t ∧
        Replies s t h rt .commit .ok [byte x.staging.length] ∧
        (∀ n, (t.line n).desc = (stagedLine n x.staging).getD (s.line n).desc) ∧
        (∀ n d, .posted n d ∈ x.staging → (t.posted n).desc = d) ∧
        (∀ n, (∀ d, .posted n d ∉ x.staging) → t.posted n = s.posted n) ∧
        (∀ g d, .group g d ∈ x.staging → (t.group g).desc = d) ∧
        (∀ g, (∀ d, .group g d ∉ x.staging) → (t.group g).desc = (s.group g).desc) ∧
        (∀ p, .policy p ∈ x.staging → t.policy = p) ∧
        ((∀ p, .policy p ∉ x.staging) → t.policy = s.policy) ∧
        (∀ u c, s.occ u = some c → c.phase.isClaimed = true →
          ∃ again, t.record u = { s.record u with occ := some { c with again := again } }) ∧
        (∀ u, (t.record u).epoch = (s.record u).epoch) ∧
        (∀ g, g ≠ h → (s.host g).presence = .present →
          NoticePlaced s t g (.configCommitted h x.staging.length)) ∧
        ∀ g, g = h ∨ (s.host g).presence ≠ .present → t.host g = s.host g)

/-- R15, R20, R41 to R44, R53, R58, R108, R119, R165: a COMMIT of one Source Descriptor entry for an enabled line
source, of any sense, in a group or not, or for an enabled posted source, and the PENDING record `u` of its origin. A
line source has no mark beside it: one in a group carries none (R20, as StarvationLeavesNothingFree keeps), and one that
gets a PENDING record has lost it (R24). An entry that disables the source withdraws the record, and its tag is granted
where an origin is starved; otherwise a changed level moves it to the tail of its new list, and a changed preferred host
opens it; nothing else of it changes. A line source leaves the collect set of a group that it leaves, or in which it is disabled; one that is level-sensed, stands, and has
its sense or group changed, then fires to the group that it names, and where it names none its live record keeps it from
firing. `m` is the state before that firing. That a record which already carries the new level joins the tail as well is
the model's reading of R53 (log entry 22). -/
def Obligations.CommitActsOnThePendingRecord : Prop :=
  (∀ (s : State) (h : HostId) (rt : RequestTag) (x : Session) (n : LineId) (d : SourceDescriptor)
    (u w : Tag) (c : Occurrence),
    Serves s h rt .commit → (s.host h).presence = .present → s.session = some x → x.holder = h →
    x.staging = [.line n d] → failsCheck s x.staging (.line n d) = none →
    (s.line n).starved = none → (s.line n).desc.enabled = true → s.occ u = some c → OnlyPending s (.line n) u c →
    ∃ t, exec (.commit h rt) s = .next t ∧
      t.postedSources = s.postedSources ∧ (t.line n).desc = d ∧ (t.line n).seq = (s.line n).seq ∧
      (d.enabled = false →
        WithdrawnByCommit s t u c ∧ (∀ m, m ≠ n → t.line m = lineAfterFreeing s m) ∧
        ∀ k, t.group k =
          if (s.line n).desc.group = some k then leftBy n (groupAfterFreeing s u (.line n) k)
          else groupAfterFreeing s u (.line n) k) ∧
      (d.enabled = true → OtherLinesKept n s t ∧ ∃ m : State,
        m.hosts = s.hosts ∧ OtherRecordsKept u s m ∧
        MovedAndOpened s m u c (s.line n).desc.terms d.terms ∧
        (∀ k, m.group k =
          if (s.line n).desc.group = some k ∧ d.group ≠ some k then leftBy n (s.group k) else s.group k) ∧
        ∀ fires, fires = (decide ((s.line n).desc.sense ≠ d.sense ∨ (s.line n).desc.group ≠ d.group) &&
            (s.line n).filter.any (fun f => decide (AtActiveLevel d.sense f.filtered))) →
          (fires = false ∨ d.group = none → SamePool m t ∧ t.groups = m.groups) ∧
          ∀ k, fires = true → d.group = some k →
            MemberTriggered m t n k (s.group k).desc.terms w ∧ OtherGroupsKept k m t)) ∧
  (∀ (s : State) (h : HostId) (rt : RequestTag) (x : Session) (n : PostedId) (d : SourceDescriptor)
    (u : Tag) (c : Occurrence),
    Serves s h rt .commit → (s.host h).presence = .present → s.session = some x → x.holder = h →
    x.staging = [.posted n d] → failsCheck s x.staging (.posted n d) = none →
    (s.posted n).desc.enabled = true → s.occ u = some c → OnlyPending s (.posted n) u c →
    ∃ t, exec (.commit h rt) s = .next t ∧
      t.posted n = { s.posted n with desc := d } ∧ (∀ m, m ≠ n → t.posted m = s.posted m) ∧
      (d.enabled = false →
        WithdrawnByCommit s t u c ∧ (∀ m, t.line m = lineAfterFreeing s m) ∧
        ∀ k, t.group k = groupAfterFreeing s u (.posted n) k) ∧
      (d.enabled = true →
        OtherRecordsKept u s t ∧ t.lineSources = s.lineSources ∧ t.groups = s.groups ∧ MovedAndOpened s t u c (s.posted n).desc.terms d.terms))

/-- R19, R20, R25, R108, R165: a COMMIT of one Source Descriptor entry for a line source with no PENDING record of its
own. Disabled, or put into another group, it loses its starved mark and leaves the collect set, and it joins none but
by firing; an edge source made
ON_COMPLETE over its CLAIMED record passes its mark on as Again; a starved source made level-sensed keeps the mark with
a count of 1 or loses it. An entry that enables it, or changes its sense or group, re-takes its reference level, and
fires it if it is level-sensed and stands. Of the two rows of R25 that a starved ON_CLAIM source made level-sensed can
meet, that of the level sense is applied alone, which is the model's choice (log entry 26). -/
def Obligations.CommitMarksAndFires : Prop :=
  ∀ (s : State) (h : HostId) (rt : RequestTag) (x : Session) (n : LineId) (d : SourceDescriptor)
    (u : Tag),
    Serves s h rt .commit → (s.host h).presence = .present → s.session = some x → x.holder = h →
    x.staging = [.line n d] → failsCheck s x.staging (.line n d) = none →
    NoPendingRecord s (.line n) →
    ∃ t, exec (.commit h rt) s = .next t ∧
      OtherLinesKept n s t ∧ t.postedSources = s.postedSources ∧ (t.line n).desc = d ∧ AttnSettled t ∧
      (∀ old, old = (s.line n).desc → ∀ changed,
        changed = (decide (old.enabled = false) || decide (old.sense ≠ d.sense) ||
          decide (old.group ≠ d.group)) → ∀ stands, stands = (s.line n).filter.any (fun f =>
            decide (AtActiveLevel d.sense f.filtered)) →
        (∀ k, d.group ≠ some k ∨ d.enabled = false ∨ changed = false ∨ stands = false → t.group k =
          if old.group = some k ∧ (old.group ≠ d.group ∨ (old.enabled = true ∧ d.enabled = false)) then
            leftBy n (s.group k) else s.group k) ∧
        (d.enabled = false →
          t.line n = { s.line n with
            desc := d
            starved := if old.enabled = true ∨ (old.group ≠ d.group ∧ d.group ≠ none) then none
              else (s.line n).starved } ∧ SamePool s t) ∧
        (d.enabled = true → d.sense.isLevel = false →
          t.lists = s.lists ∧
          (∀ passes, passes = (decide (d.group = none ∧ (s.line n).starved ≠ none ∧
              old.clearPolicy = .onClaim ∧ d.clearPolicy = .onComplete) &&
              !decide (NoClaimedRecord s (.line n))) →
            (∀ v, t.record v = { s.record v with
              occ := (s.occ v).map (fun c =>
                if passes = true ∧ c.origin = .line n then { c with again := true } else c) }) ∧
            t.line n = { s.line n with
              desc := d
              filter := if changed then (s.line n).filter.map retaken else (s.line n).filter
              starved := if passes = true ∨ (old.group ≠ d.group ∧ d.group ≠ none) then none
                else (s.line n).starved })) ∧
        (d.enabled = true → d.sense.isLevel = true → ∀ mark,
          mark = (if old.group ≠ d.group ∧ d.group ≠ none then none
            else if d.group = none ∧ (s.line n).starved ≠ none ∧ old.sense ≠ d.sense then
              (if stands = true ∧ NoLiveRecord s (.line n) then some 1 else none)
            else (s.line n).starved) → ∀ after,
          after = { s.line n with
            desc := d, starved := mark
            filter := if changed then (s.line n).filter.map retaken else (s.line n).filter } →
          (changed = false ∨ stands = false ∨ (d.group = none ∧ (mark ≠ none ∨
              ¬ NoLiveRecord s (.line n))) → t.line n = after ∧ SamePool s t) ∧
          (changed = true → stands = true → d.group = none → mark = none → NoLiveRecord s (.line n) →
            (LowestFree s u →
              t.line n = { after with seq := (s.line n).seq + 1 } ∧
              EntersPending s t u d.terms
                (createdFields (.line n) ((s.line n).seq + 1) d.terms.level 0 none 0)) ∧
            ((∀ v, s.occ v ≠ none) →
              t.line n = { after with starved := some 1 } ∧ SamePool s t)) ∧
          (∀ k, changed = true → stands = true → d.group = some k →
            t.line n = after ∧ MemberTriggered s t n k (s.group k).desc.terms u ∧
            ∀ j, j ≠ k → t.group j =
              if old.group = some j then leftBy n (s.group j) else s.group j)))

/-- R41 to R44, R107, R166, R167: a COMMIT of one Group Descriptor entry. Disabling the group empties its collect set,
clears its mark and withdraws its PENDING record, whose tag is granted where an origin is starved; a changed level or preferred host acts on the PENDING record; enabling it fires
every standing level-sensed member, the first of which requests a record that the others merge into, or joins them to
the collect set of a CLAIMED one. A member that an entry of the same list disables does not fire at the enabling, in
either order of the two entries; that this last row of R167 goes before step 5 of R166 where the group's entry stands
first is log entry 29. -/
def Obligations.CommitOfAGroupEntry : Prop :=
  (∀ (s : State) (h : HostId) (rt : RequestTag) (x : Session) (g : GroupId) (d : GroupDescriptor)
    (u : Tag),
    Serves s h rt .commit → (s.host h).presence = .present → s.session = some x → x.holder = h →
    x.staging = [.group g d] →
    ∃ t, exec (.commit h rt) s = .next t ∧
      (t.group g).desc = d ∧ AttnSettled t ∧
      (NoPendingRecord s (.group g) ∨ (s.group g).desc.enabled = false ∨ d.enabled = true →
        SameSources s t ∧ OtherGroupsKept g s t) ∧
      ((s.group g).desc.enabled = true → d.enabled = false →
        (NoPendingRecord s (.group g) →
          t.group g = { s.group g with desc := d, collect := [], starved := false } ∧ SamePool s t) ∧
        (∀ c ∈ s.occ u, OnlyPending s (.group g) u c → (s.group g).starved = false →
          t.group g = { s.group g with desc := d, collect := [], live := none } ∧
          WithdrawnByCommit s t u c ∧ SourcesAfterFreeing s t ∧
          ∀ k, k ≠ g → t.group k = groupAfterFreeing s u (.group g) k)) ∧
      ((s.group g).desc.enabled = d.enabled →
        t.group g = { s.group g with desc := d } ∧
        (NoPendingRecord s (.group g) → SamePool s t) ∧
        (∀ c ∈ s.occ u, OnlyPending s (.group g) u c →
          OtherRecordsKept u s t ∧ MovedAndOpened s t u c (s.group g).desc.terms d.terms)) ∧
      ((s.group g).desc.enabled = false → d.enabled = true → NoPendingRecord s (.group g) →
        (standingMembers s g = [] → t.group g = { s.group g with desc := d } ∧ SamePool s t) ∧
        (standingMembers s g ≠ [] → (s.group g).starved = false →
          (∀ n, n ∈ (t.group g).collect ↔ n ∈ (s.group g).collect ∨ n ∈ standingMembers s g) ∧
          ((s.group g).live = none → LowestFree s u →
            t.group g = { s.group g with
              desc := d, collect := (t.group g).collect, seq := (s.group g).seq + 1, live := some u } ∧
            EntersPending s t u d.terms (createdFields (.group g) ((s.group g).seq + 1) d.terms.level
              ((standingMembers s g).length - 1) none 0)) ∧
          ((s.group g).live = none → (∀ v, s.occ v ≠ none) →
            t.group g = { s.group g with
              desc := d, collect := (t.group g).collect, starved := true } ∧ SamePool s t) ∧
          ((s.group g).live = some u → (s.occ u).any (fun c => c.phase.isClaimed) = true →
            t.group g = { s.group g with desc := d, collect := (t.group g).collect } ∧
            SamePool s t)))) ∧
  (∀ (s : State) (h : HostId) (rt : RequestTag) (x : Session) (g : GroupId) (d : GroupDescriptor) (n : LineId)
    (e : SourceDescriptor),
    Serves s h rt .commit → (s.host h).presence = .present → s.session = some x → x.holder = h →
    x.staging = [.group g d, .line n e] ∨ x.staging = [.line n e, .group g d] →
    failsCheck s x.staging (.line n e) = none →
    (s.group g).desc.enabled = false → d.enabled = true →
    (s.line n).desc.enabled = true → (s.line n).desc.group = some g → e.enabled = false →
    (∀ m ∈ standingMembers s g, m = n) → NoPendingRecord s (.line n) →
    ((s.group g).desc.terms = d.terms ∨ NoPendingRecord s (.group g)) →
    ∃ t, exec (.commit h rt) s = .next t ∧
      t.group g = leftBy n { s.group g with desc := d } ∧ OtherGroupsKept g s t ∧
      (t.line n).desc = e ∧ (t.line n).seq = (s.line n).seq ∧ OtherLinesKept n s t ∧ SamePool s t)

/-- R153, R155, R169: the two ends of a session that apply nothing and leave the committed state as it is. The expiry
of the session timer places SESSION_EXPIRED with the number of staged entries in the former holder's queue, or drops
it with the overflow flag set where 8 are queued; DISCARD from the holder produces no notice and answers with the
number of staged entries. -/
def Obligations.SessionsEndWithoutCommit : Prop :=
  (∀ (s : State) (x : Session),
    Clocked s → s.session = some x → x.timer = .due → (s.host x.holder).presence = .present →
    ∃ t, exec .sessionTimerExpiry s = .next t ∧
      t.session = none ∧ t.policy = s.policy ∧
      NoticePlaced s t x.holder (.sessionExpired x.staging.length) ∧ OtherHostsKept x.holder s t ∧
      SameTables s t ∧ SamePool s t ∧ t.ports = s.ports ∧ SameBoard s t ∧ AttnSettled t) ∧
  (∀ (s : State) (h : HostId) (rt : RequestTag) (x : Session),
    Serves s h rt .discard → (s.host h).presence = .present → s.session = some x → x.holder = h →
    ∃ t, exec (.discard h rt) s = .next t ∧
      t.session = none ∧ t.policy = s.policy ∧ SameTables s t ∧ SamePool s t ∧ t.hosts = s.hosts ∧
      t.attn = s.attn ∧ SameBoard s t ∧
      Replies s t h rt .discard .ok [byte x.staging.length])

/-! ### What every step keeps -/

/-- R29, R30, R50: in every step from a state that keeps them, the pending lists hold exactly the PENDING
records, each once and in the list of its level, and timers run as the record states ask. -/
def Obligations.PendingListsStayExact : Prop :=
  ∀ (s t : State), ListsExact s ∧ TimersByState s → step s = .next t → ListsExact t ∧ TimersByState t

/-- R70 to R72: the service stacks hold exactly the CLAIMED records, each in its holder's stack, with levels
that fall strictly towards the top. -/
def Obligations.StacksStayExact : Prop :=
  ∀ (s t : State), StacksExact s → step s = .next t → StacksExact t

/-- R121, R133, R135, R136, R152: hosts that are not PRESENT hold what their presence allows, and only a
PRESENT host holds the session. -/
def Obligations.PresenceStaysConsistent : Prop :=
  ∀ (s t : State), PresenceConsistent s → step s = .next t → PresenceConsistent t

/-- R67, R68: after every step each ATTN output stands at its condition. -/
def Obligations.AttnStaysSettled : Prop :=
  ∀ (s t : State), AttnSettled s → step s = .next t → AttnSettled t

/-- R43: while any origin carries a starved mark, no record is FREE. -/
def Obligations.StarvationLeavesNothingFree : Prop :=
  ∀ (s t : State), NoneFreeWhileStarved s → step s = .next t → NoneFreeWhileStarved t

/-- R98, R110, R158 to R163: the committed configuration and the staging list stay legal. -/
def Obligations.ConfigurationStaysLegal : Prop :=
  ∀ (s t : State), ConfigurationLegal s → step s = .next t → ConfigurationLegal t

/-- R1, R141, R171, R174: the divider, the notice queues and the ports' buffers stay within their bounds. -/
def Obligations.BuffersStayBounded : Prop :=
  ∀ (s t : State), BuffersBounded s → step s = .next t → BuffersBounded t
end

