-- ==== Sys2Proof/Laws/Tables.lean ====
section
/-! SUPPORT. Reading a table after one of its entries, or all of them, were replaced. -/

namespace Sys2Proof

variable {α β : Type} {n : Nat}

@[simp] theorem Table.look_put_same (v : Table α n) (i : Fin n) (x : α) : (v.put i x).look i = x := by
  simp [Table.look, Table.put]

@[simp] theorem Table.look_put_ne (v : Table α n) (i j : Fin n) (x : α) (h : j ≠ i) :
    (v.put i x).look j = v.look j := by
  have hv : i.val ≠ j.val := fun e => h (Fin.ext e.symm)
  simp [Table.look, Table.put, hv]

@[simp] theorem Table.look_const (x : α) (i : Fin n) : (Table.const n x).look i = x := by
  simp [Table.look, Table.const]

@[simp] theorem Table.look_mapAll (f : α → β) (v : Table α n) (i : Fin n) :
    (Table.mapAll f v).look i = f (v.look i) := by
  simp [Table.look, Table.mapAll]

@[simp] theorem Table.look_mapIdx (f : Fin n → α → β) (v : Table α n) (i : Fin n) :
    (Table.mapIdx f v).look i = f i (v.look i) := by
  simp [Table.look, Table.mapIdx]

/-- Two tables with the same entries are the same table. -/
theorem Table.ext_look (v w : Table α n) (h : ∀ i, v.look i = w.look i) : v = w := by
  apply Vector.ext
  intro i hi
  exact h ⟨i, hi⟩

end Sys2Proof
end

