-- ==== Sys2Proof/Laws/State.lean ====
section
/-! SUPPORT. What each update of one table entry changes and keeps: one lemma per field and update, and one
per accessor and update. -/

namespace Sys2Proof.Machine

variable (s : State)

/-! ### setHost -/

@[simp] theorem State.setHost_refclk (i : HostId) (x : HostContext) : (s.setHost i x).refclk = s.refclk := rfl
@[simp] theorem State.setHost_divider (i : HostId) (x : HostContext) : (s.setHost i x).divider = s.divider := rfl
@[simp] theorem State.setHost_rstnHold (i : HostId) (x : HostContext) : (s.setHost i x).rstnHold = s.rstnHold := rfl
@[simp] theorem State.setHost_powerHold (i : HostId) (x : HostContext) : (s.setHost i x).powerHold = s.powerHold := rfl
@[simp] theorem State.setHost_attn (i : HostId) (x : HostContext) : (s.setHost i x).attn = s.attn := rfl
@[simp] theorem State.setHost_lineSources (i : HostId) (x : HostContext) : (s.setHost i x).lineSources = s.lineSources := rfl
@[simp] theorem State.setHost_postedSources (i : HostId) (x : HostContext) : (s.setHost i x).postedSources = s.postedSources := rfl
@[simp] theorem State.setHost_groups (i : HostId) (x : HostContext) : (s.setHost i x).groups = s.groups := rfl
@[simp] theorem State.setHost_records (i : HostId) (x : HostContext) : (s.setHost i x).records = s.records := rfl
@[simp] theorem State.setHost_lists (i : HostId) (x : HostContext) : (s.setHost i x).lists = s.lists := rfl
@[simp] theorem State.setHost_hosts (i : HostId) (x : HostContext) : (s.setHost i x).hosts = s.hosts.put i x := rfl
@[simp] theorem State.setHost_session (i : HostId) (x : HostContext) : (s.setHost i x).session = s.session := rfl
@[simp] theorem State.setHost_policy (i : HostId) (x : HostContext) : (s.setHost i x).policy = s.policy := rfl
@[simp] theorem State.setHost_ports (i : HostId) (x : HostContext) : (s.setHost i x).ports = s.ports := rfl
@[simp] theorem State.setHost_choices (i : HostId) (x : HostContext) : (s.setHost i x).choices = s.choices := rfl
@[simp] theorem State.setHost_rawLevels (i : HostId) (x : HostContext) : (s.setHost i x).rawLevels = s.rawLevels := rfl
@[simp] theorem State.setHost_pending (i : HostId) (x : HostContext) : (s.setHost i x).pending = s.pending := rfl
@[simp] theorem State.host_setHost_same (i : HostId) (x : HostContext) : (s.setHost i x).host i = x := by
  simp [State.setHost, State.host]
@[simp] theorem State.host_setHost_ne (i j : HostId) (x : HostContext) (h : j ≠ i) :
    (s.setHost i x).host j = s.host j := by
  simp [State.setHost, State.host, h]
@[simp] theorem State.port_setHost (i : HostId) (x : HostContext) (j : HostId) : (s.setHost i x).port j = s.port j := rfl
@[simp] theorem State.record_setHost (i : HostId) (x : HostContext) (j : Tag) : (s.setHost i x).record j = s.record j := rfl
@[simp] theorem State.line_setHost (i : HostId) (x : HostContext) (j : LineId) : (s.setHost i x).line j = s.line j := rfl
@[simp] theorem State.posted_setHost (i : HostId) (x : HostContext) (j : PostedId) : (s.setHost i x).posted j = s.posted j := rfl
@[simp] theorem State.group_setHost (i : HostId) (x : HostContext) (j : GroupId) : (s.setHost i x).group j = s.group j := rfl
@[simp] theorem State.list_setHost (i : HostId) (x : HostContext) (j : Level) : (s.setHost i x).list j = s.list j := rfl
@[simp] theorem State.setHost_inReset (i : HostId) (x : HostContext) : (s.setHost i x).inReset = s.inReset := rfl
@[simp] theorem State.setHost_clocked (i : HostId) (x : HostContext) : (s.setHost i x).clocked = s.clocked := rfl
@[simp] theorem State.occ_setHost (i : HostId) (x : HostContext) (t : Tag) : (s.setHost i x).occ t = s.occ t := rfl

/-! ### setPort -/

@[simp] theorem State.setPort_refclk (i : HostId) (x : Port) : (s.setPort i x).refclk = s.refclk := rfl
@[simp] theorem State.setPort_divider (i : HostId) (x : Port) : (s.setPort i x).divider = s.divider := rfl
@[simp] theorem State.setPort_rstnHold (i : HostId) (x : Port) : (s.setPort i x).rstnHold = s.rstnHold := rfl
@[simp] theorem State.setPort_powerHold (i : HostId) (x : Port) : (s.setPort i x).powerHold = s.powerHold := rfl
@[simp] theorem State.setPort_attn (i : HostId) (x : Port) : (s.setPort i x).attn = s.attn := rfl
@[simp] theorem State.setPort_lineSources (i : HostId) (x : Port) : (s.setPort i x).lineSources = s.lineSources := rfl
@[simp] theorem State.setPort_postedSources (i : HostId) (x : Port) : (s.setPort i x).postedSources = s.postedSources := rfl
@[simp] theorem State.setPort_groups (i : HostId) (x : Port) : (s.setPort i x).groups = s.groups := rfl
@[simp] theorem State.setPort_records (i : HostId) (x : Port) : (s.setPort i x).records = s.records := rfl
@[simp] theorem State.setPort_lists (i : HostId) (x : Port) : (s.setPort i x).lists = s.lists := rfl
@[simp] theorem State.setPort_hosts (i : HostId) (x : Port) : (s.setPort i x).hosts = s.hosts := rfl
@[simp] theorem State.setPort_session (i : HostId) (x : Port) : (s.setPort i x).session = s.session := rfl
@[simp] theorem State.setPort_policy (i : HostId) (x : Port) : (s.setPort i x).policy = s.policy := rfl
@[simp] theorem State.setPort_ports (i : HostId) (x : Port) : (s.setPort i x).ports = s.ports.put i x := rfl
@[simp] theorem State.setPort_choices (i : HostId) (x : Port) : (s.setPort i x).choices = s.choices := rfl
@[simp] theorem State.setPort_rawLevels (i : HostId) (x : Port) : (s.setPort i x).rawLevels = s.rawLevels := rfl
@[simp] theorem State.setPort_pending (i : HostId) (x : Port) : (s.setPort i x).pending = s.pending := rfl
@[simp] theorem State.host_setPort (i : HostId) (x : Port) (j : HostId) : (s.setPort i x).host j = s.host j := rfl
@[simp] theorem State.port_setPort_same (i : HostId) (x : Port) : (s.setPort i x).port i = x := by
  simp [State.setPort, State.port]
@[simp] theorem State.port_setPort_ne (i j : HostId) (x : Port) (h : j ≠ i) :
    (s.setPort i x).port j = s.port j := by
  simp [State.setPort, State.port, h]
@[simp] theorem State.record_setPort (i : HostId) (x : Port) (j : Tag) : (s.setPort i x).record j = s.record j := rfl
@[simp] theorem State.line_setPort (i : HostId) (x : Port) (j : LineId) : (s.setPort i x).line j = s.line j := rfl
@[simp] theorem State.posted_setPort (i : HostId) (x : Port) (j : PostedId) : (s.setPort i x).posted j = s.posted j := rfl
@[simp] theorem State.group_setPort (i : HostId) (x : Port) (j : GroupId) : (s.setPort i x).group j = s.group j := rfl
@[simp] theorem State.list_setPort (i : HostId) (x : Port) (j : Level) : (s.setPort i x).list j = s.list j := rfl
@[simp] theorem State.setPort_inReset (i : HostId) (x : Port) : (s.setPort i x).inReset = s.inReset := rfl
@[simp] theorem State.setPort_clocked (i : HostId) (x : Port) : (s.setPort i x).clocked = s.clocked := rfl
@[simp] theorem State.occ_setPort (i : HostId) (x : Port) (t : Tag) : (s.setPort i x).occ t = s.occ t := rfl

/-! ### setRecord -/

@[simp] theorem State.setRecord_refclk (i : Tag) (x : Record) : (s.setRecord i x).refclk = s.refclk := rfl
@[simp] theorem State.setRecord_divider (i : Tag) (x : Record) : (s.setRecord i x).divider = s.divider := rfl
@[simp] theorem State.setRecord_rstnHold (i : Tag) (x : Record) : (s.setRecord i x).rstnHold = s.rstnHold := rfl
@[simp] theorem State.setRecord_powerHold (i : Tag) (x : Record) : (s.setRecord i x).powerHold = s.powerHold := rfl
@[simp] theorem State.setRecord_attn (i : Tag) (x : Record) : (s.setRecord i x).attn = s.attn := rfl
@[simp] theorem State.setRecord_lineSources (i : Tag) (x : Record) : (s.setRecord i x).lineSources = s.lineSources := rfl
@[simp] theorem State.setRecord_postedSources (i : Tag) (x : Record) : (s.setRecord i x).postedSources = s.postedSources := rfl
@[simp] theorem State.setRecord_groups (i : Tag) (x : Record) : (s.setRecord i x).groups = s.groups := rfl
@[simp] theorem State.setRecord_records (i : Tag) (x : Record) : (s.setRecord i x).records = s.records.put i x := rfl
@[simp] theorem State.setRecord_lists (i : Tag) (x : Record) : (s.setRecord i x).lists = s.lists := rfl
@[simp] theorem State.setRecord_hosts (i : Tag) (x : Record) : (s.setRecord i x).hosts = s.hosts := rfl
@[simp] theorem State.setRecord_session (i : Tag) (x : Record) : (s.setRecord i x).session = s.session := rfl
@[simp] theorem State.setRecord_policy (i : Tag) (x : Record) : (s.setRecord i x).policy = s.policy := rfl
@[simp] theorem State.setRecord_ports (i : Tag) (x : Record) : (s.setRecord i x).ports = s.ports := rfl
@[simp] theorem State.setRecord_choices (i : Tag) (x : Record) : (s.setRecord i x).choices = s.choices := rfl
@[simp] theorem State.setRecord_rawLevels (i : Tag) (x : Record) : (s.setRecord i x).rawLevels = s.rawLevels := rfl
@[simp] theorem State.setRecord_pending (i : Tag) (x : Record) : (s.setRecord i x).pending = s.pending := rfl
@[simp] theorem State.host_setRecord (i : Tag) (x : Record) (j : HostId) : (s.setRecord i x).host j = s.host j := rfl
@[simp] theorem State.port_setRecord (i : Tag) (x : Record) (j : HostId) : (s.setRecord i x).port j = s.port j := rfl
@[simp] theorem State.record_setRecord_same (i : Tag) (x : Record) : (s.setRecord i x).record i = x := by
  simp [State.setRecord, State.record]
@[simp] theorem State.record_setRecord_ne (i j : Tag) (x : Record) (h : j ≠ i) :
    (s.setRecord i x).record j = s.record j := by
  simp [State.setRecord, State.record, h]
@[simp] theorem State.line_setRecord (i : Tag) (x : Record) (j : LineId) : (s.setRecord i x).line j = s.line j := rfl
@[simp] theorem State.posted_setRecord (i : Tag) (x : Record) (j : PostedId) : (s.setRecord i x).posted j = s.posted j := rfl
@[simp] theorem State.group_setRecord (i : Tag) (x : Record) (j : GroupId) : (s.setRecord i x).group j = s.group j := rfl
@[simp] theorem State.list_setRecord (i : Tag) (x : Record) (j : Level) : (s.setRecord i x).list j = s.list j := rfl
@[simp] theorem State.setRecord_inReset (i : Tag) (x : Record) : (s.setRecord i x).inReset = s.inReset := rfl
@[simp] theorem State.setRecord_clocked (i : Tag) (x : Record) : (s.setRecord i x).clocked = s.clocked := rfl
@[simp] theorem State.occ_setRecord_same (i : Tag) (x : Record) : (s.setRecord i x).occ i = x.occ := by
  simp [State.occ]
@[simp] theorem State.occ_setRecord_ne (i j : Tag) (x : Record) (h : j ≠ i) :
    (s.setRecord i x).occ j = s.occ j := by
  simp [State.occ, h]

/-! ### setLine -/

@[simp] theorem State.setLine_refclk (i : LineId) (x : LineSource) : (s.setLine i x).refclk = s.refclk := rfl
@[simp] theorem State.setLine_divider (i : LineId) (x : LineSource) : (s.setLine i x).divider = s.divider := rfl
@[simp] theorem State.setLine_rstnHold (i : LineId) (x : LineSource) : (s.setLine i x).rstnHold = s.rstnHold := rfl
@[simp] theorem State.setLine_powerHold (i : LineId) (x : LineSource) : (s.setLine i x).powerHold = s.powerHold := rfl
@[simp] theorem State.setLine_attn (i : LineId) (x : LineSource) : (s.setLine i x).attn = s.attn := rfl
@[simp] theorem State.setLine_lineSources (i : LineId) (x : LineSource) : (s.setLine i x).lineSources = s.lineSources.put i x := rfl
@[simp] theorem State.setLine_postedSources (i : LineId) (x : LineSource) : (s.setLine i x).postedSources = s.postedSources := rfl
@[simp] theorem State.setLine_groups (i : LineId) (x : LineSource) : (s.setLine i x).groups = s.groups := rfl
@[simp] theorem State.setLine_records (i : LineId) (x : LineSource) : (s.setLine i x).records = s.records := rfl
@[simp] theorem State.setLine_lists (i : LineId) (x : LineSource) : (s.setLine i x).lists = s.lists := rfl
@[simp] theorem State.setLine_hosts (i : LineId) (x : LineSource) : (s.setLine i x).hosts = s.hosts := rfl
@[simp] theorem State.setLine_session (i : LineId) (x : LineSource) : (s.setLine i x).session = s.session := rfl
@[simp] theorem State.setLine_policy (i : LineId) (x : LineSource) : (s.setLine i x).policy = s.policy := rfl
@[simp] theorem State.setLine_ports (i : LineId) (x : LineSource) : (s.setLine i x).ports = s.ports := rfl
@[simp] theorem State.setLine_choices (i : LineId) (x : LineSource) : (s.setLine i x).choices = s.choices := rfl
@[simp] theorem State.setLine_rawLevels (i : LineId) (x : LineSource) : (s.setLine i x).rawLevels = s.rawLevels := rfl
@[simp] theorem State.setLine_pending (i : LineId) (x : LineSource) : (s.setLine i x).pending = s.pending := rfl
@[simp] theorem State.host_setLine (i : LineId) (x : LineSource) (j : HostId) : (s.setLine i x).host j = s.host j := rfl
@[simp] theorem State.port_setLine (i : LineId) (x : LineSource) (j : HostId) : (s.setLine i x).port j = s.port j := rfl
@[simp] theorem State.record_setLine (i : LineId) (x : LineSource) (j : Tag) : (s.setLine i x).record j = s.record j := rfl
@[simp] theorem State.line_setLine_same (i : LineId) (x : LineSource) : (s.setLine i x).line i = x := by
  simp [State.setLine, State.line]
@[simp] theorem State.line_setLine_ne (i j : LineId) (x : LineSource) (h : j ≠ i) :
    (s.setLine i x).line j = s.line j := by
  simp [State.setLine, State.line, h]
@[simp] theorem State.posted_setLine (i : LineId) (x : LineSource) (j : PostedId) : (s.setLine i x).posted j = s.posted j := rfl
@[simp] theorem State.group_setLine (i : LineId) (x : LineSource) (j : GroupId) : (s.setLine i x).group j = s.group j := rfl
@[simp] theorem State.list_setLine (i : LineId) (x : LineSource) (j : Level) : (s.setLine i x).list j = s.list j := rfl
@[simp] theorem State.setLine_inReset (i : LineId) (x : LineSource) : (s.setLine i x).inReset = s.inReset := rfl
@[simp] theorem State.setLine_clocked (i : LineId) (x : LineSource) : (s.setLine i x).clocked = s.clocked := rfl
@[simp] theorem State.occ_setLine (i : LineId) (x : LineSource) (t : Tag) : (s.setLine i x).occ t = s.occ t := rfl

/-! ### setPosted -/

@[simp] theorem State.setPosted_refclk (i : PostedId) (x : PostedSource) : (s.setPosted i x).refclk = s.refclk := rfl
@[simp] theorem State.setPosted_divider (i : PostedId) (x : PostedSource) : (s.setPosted i x).divider = s.divider := rfl
@[simp] theorem State.setPosted_rstnHold (i : PostedId) (x : PostedSource) : (s.setPosted i x).rstnHold = s.rstnHold := rfl
@[simp] theorem State.setPosted_powerHold (i : PostedId) (x : PostedSource) : (s.setPosted i x).powerHold = s.powerHold := rfl
@[simp] theorem State.setPosted_attn (i : PostedId) (x : PostedSource) : (s.setPosted i x).attn = s.attn := rfl
@[simp] theorem State.setPosted_lineSources (i : PostedId) (x : PostedSource) : (s.setPosted i x).lineSources = s.lineSources := rfl
@[simp] theorem State.setPosted_postedSources (i : PostedId) (x : PostedSource) : (s.setPosted i x).postedSources = s.postedSources.put i x := rfl
@[simp] theorem State.setPosted_groups (i : PostedId) (x : PostedSource) : (s.setPosted i x).groups = s.groups := rfl
@[simp] theorem State.setPosted_records (i : PostedId) (x : PostedSource) : (s.setPosted i x).records = s.records := rfl
@[simp] theorem State.setPosted_lists (i : PostedId) (x : PostedSource) : (s.setPosted i x).lists = s.lists := rfl
@[simp] theorem State.setPosted_hosts (i : PostedId) (x : PostedSource) : (s.setPosted i x).hosts = s.hosts := rfl
@[simp] theorem State.setPosted_session (i : PostedId) (x : PostedSource) : (s.setPosted i x).session = s.session := rfl
@[simp] theorem State.setPosted_policy (i : PostedId) (x : PostedSource) : (s.setPosted i x).policy = s.policy := rfl
@[simp] theorem State.setPosted_ports (i : PostedId) (x : PostedSource) : (s.setPosted i x).ports = s.ports := rfl
@[simp] theorem State.setPosted_choices (i : PostedId) (x : PostedSource) : (s.setPosted i x).choices = s.choices := rfl
@[simp] theorem State.setPosted_rawLevels (i : PostedId) (x : PostedSource) : (s.setPosted i x).rawLevels = s.rawLevels := rfl
@[simp] theorem State.setPosted_pending (i : PostedId) (x : PostedSource) : (s.setPosted i x).pending = s.pending := rfl
@[simp] theorem State.host_setPosted (i : PostedId) (x : PostedSource) (j : HostId) : (s.setPosted i x).host j = s.host j := rfl
@[simp] theorem State.port_setPosted (i : PostedId) (x : PostedSource) (j : HostId) : (s.setPosted i x).port j = s.port j := rfl
@[simp] theorem State.record_setPosted (i : PostedId) (x : PostedSource) (j : Tag) : (s.setPosted i x).record j = s.record j := rfl
@[simp] theorem State.line_setPosted (i : PostedId) (x : PostedSource) (j : LineId) : (s.setPosted i x).line j = s.line j := rfl
@[simp] theorem State.posted_setPosted_same (i : PostedId) (x : PostedSource) : (s.setPosted i x).posted i = x := by
  simp [State.setPosted, State.posted]
@[simp] theorem State.posted_setPosted_ne (i j : PostedId) (x : PostedSource) (h : j ≠ i) :
    (s.setPosted i x).posted j = s.posted j := by
  simp [State.setPosted, State.posted, h]
@[simp] theorem State.group_setPosted (i : PostedId) (x : PostedSource) (j : GroupId) : (s.setPosted i x).group j = s.group j := rfl
@[simp] theorem State.list_setPosted (i : PostedId) (x : PostedSource) (j : Level) : (s.setPosted i x).list j = s.list j := rfl
@[simp] theorem State.setPosted_inReset (i : PostedId) (x : PostedSource) : (s.setPosted i x).inReset = s.inReset := rfl
@[simp] theorem State.setPosted_clocked (i : PostedId) (x : PostedSource) : (s.setPosted i x).clocked = s.clocked := rfl
@[simp] theorem State.occ_setPosted (i : PostedId) (x : PostedSource) (t : Tag) : (s.setPosted i x).occ t = s.occ t := rfl

/-! ### setGroup -/

@[simp] theorem State.setGroup_refclk (i : GroupId) (x : Group) : (s.setGroup i x).refclk = s.refclk := rfl
@[simp] theorem State.setGroup_divider (i : GroupId) (x : Group) : (s.setGroup i x).divider = s.divider := rfl
@[simp] theorem State.setGroup_rstnHold (i : GroupId) (x : Group) : (s.setGroup i x).rstnHold = s.rstnHold := rfl
@[simp] theorem State.setGroup_powerHold (i : GroupId) (x : Group) : (s.setGroup i x).powerHold = s.powerHold := rfl
@[simp] theorem State.setGroup_attn (i : GroupId) (x : Group) : (s.setGroup i x).attn = s.attn := rfl
@[simp] theorem State.setGroup_lineSources (i : GroupId) (x : Group) : (s.setGroup i x).lineSources = s.lineSources := rfl
@[simp] theorem State.setGroup_postedSources (i : GroupId) (x : Group) : (s.setGroup i x).postedSources = s.postedSources := rfl
@[simp] theorem State.setGroup_groups (i : GroupId) (x : Group) : (s.setGroup i x).groups = s.groups.put i x := rfl
@[simp] theorem State.setGroup_records (i : GroupId) (x : Group) : (s.setGroup i x).records = s.records := rfl
@[simp] theorem State.setGroup_lists (i : GroupId) (x : Group) : (s.setGroup i x).lists = s.lists := rfl
@[simp] theorem State.setGroup_hosts (i : GroupId) (x : Group) : (s.setGroup i x).hosts = s.hosts := rfl
@[simp] theorem State.setGroup_session (i : GroupId) (x : Group) : (s.setGroup i x).session = s.session := rfl
@[simp] theorem State.setGroup_policy (i : GroupId) (x : Group) : (s.setGroup i x).policy = s.policy := rfl
@[simp] theorem State.setGroup_ports (i : GroupId) (x : Group) : (s.setGroup i x).ports = s.ports := rfl
@[simp] theorem State.setGroup_choices (i : GroupId) (x : Group) : (s.setGroup i x).choices = s.choices := rfl
@[simp] theorem State.setGroup_rawLevels (i : GroupId) (x : Group) : (s.setGroup i x).rawLevels = s.rawLevels := rfl
@[simp] theorem State.setGroup_pending (i : GroupId) (x : Group) : (s.setGroup i x).pending = s.pending := rfl
@[simp] theorem State.host_setGroup (i : GroupId) (x : Group) (j : HostId) : (s.setGroup i x).host j = s.host j := rfl
@[simp] theorem State.port_setGroup (i : GroupId) (x : Group) (j : HostId) : (s.setGroup i x).port j = s.port j := rfl
@[simp] theorem State.record_setGroup (i : GroupId) (x : Group) (j : Tag) : (s.setGroup i x).record j = s.record j := rfl
@[simp] theorem State.line_setGroup (i : GroupId) (x : Group) (j : LineId) : (s.setGroup i x).line j = s.line j := rfl
@[simp] theorem State.posted_setGroup (i : GroupId) (x : Group) (j : PostedId) : (s.setGroup i x).posted j = s.posted j := rfl
@[simp] theorem State.group_setGroup_same (i : GroupId) (x : Group) : (s.setGroup i x).group i = x := by
  simp [State.setGroup, State.group]
@[simp] theorem State.group_setGroup_ne (i j : GroupId) (x : Group) (h : j ≠ i) :
    (s.setGroup i x).group j = s.group j := by
  simp [State.setGroup, State.group, h]
@[simp] theorem State.list_setGroup (i : GroupId) (x : Group) (j : Level) : (s.setGroup i x).list j = s.list j := rfl
@[simp] theorem State.setGroup_inReset (i : GroupId) (x : Group) : (s.setGroup i x).inReset = s.inReset := rfl
@[simp] theorem State.setGroup_clocked (i : GroupId) (x : Group) : (s.setGroup i x).clocked = s.clocked := rfl
@[simp] theorem State.occ_setGroup (i : GroupId) (x : Group) (t : Tag) : (s.setGroup i x).occ t = s.occ t := rfl

/-! ### setList -/

@[simp] theorem State.setList_refclk (i : Level) (x : List Tag) : (s.setList i x).refclk = s.refclk := rfl
@[simp] theorem State.setList_divider (i : Level) (x : List Tag) : (s.setList i x).divider = s.divider := rfl
@[simp] theorem State.setList_rstnHold (i : Level) (x : List Tag) : (s.setList i x).rstnHold = s.rstnHold := rfl
@[simp] theorem State.setList_powerHold (i : Level) (x : List Tag) : (s.setList i x).powerHold = s.powerHold := rfl
@[simp] theorem State.setList_attn (i : Level) (x : List Tag) : (s.setList i x).attn = s.attn := rfl
@[simp] theorem State.setList_lineSources (i : Level) (x : List Tag) : (s.setList i x).lineSources = s.lineSources := rfl
@[simp] theorem State.setList_postedSources (i : Level) (x : List Tag) : (s.setList i x).postedSources = s.postedSources := rfl
@[simp] theorem State.setList_groups (i : Level) (x : List Tag) : (s.setList i x).groups = s.groups := rfl
@[simp] theorem State.setList_records (i : Level) (x : List Tag) : (s.setList i x).records = s.records := rfl
@[simp] theorem State.setList_lists (i : Level) (x : List Tag) : (s.setList i x).lists = s.lists.put i x := rfl
@[simp] theorem State.setList_hosts (i : Level) (x : List Tag) : (s.setList i x).hosts = s.hosts := rfl
@[simp] theorem State.setList_session (i : Level) (x : List Tag) : (s.setList i x).session = s.session := rfl
@[simp] theorem State.setList_policy (i : Level) (x : List Tag) : (s.setList i x).policy = s.policy := rfl
@[simp] theorem State.setList_ports (i : Level) (x : List Tag) : (s.setList i x).ports = s.ports := rfl
@[simp] theorem State.setList_choices (i : Level) (x : List Tag) : (s.setList i x).choices = s.choices := rfl
@[simp] theorem State.setList_rawLevels (i : Level) (x : List Tag) : (s.setList i x).rawLevels = s.rawLevels := rfl
@[simp] theorem State.setList_pending (i : Level) (x : List Tag) : (s.setList i x).pending = s.pending := rfl
@[simp] theorem State.host_setList (i : Level) (x : List Tag) (j : HostId) : (s.setList i x).host j = s.host j := rfl
@[simp] theorem State.port_setList (i : Level) (x : List Tag) (j : HostId) : (s.setList i x).port j = s.port j := rfl
@[simp] theorem State.record_setList (i : Level) (x : List Tag) (j : Tag) : (s.setList i x).record j = s.record j := rfl
@[simp] theorem State.line_setList (i : Level) (x : List Tag) (j : LineId) : (s.setList i x).line j = s.line j := rfl
@[simp] theorem State.posted_setList (i : Level) (x : List Tag) (j : PostedId) : (s.setList i x).posted j = s.posted j := rfl
@[simp] theorem State.group_setList (i : Level) (x : List Tag) (j : GroupId) : (s.setList i x).group j = s.group j := rfl
@[simp] theorem State.list_setList_same (i : Level) (x : List Tag) : (s.setList i x).list i = x := by
  simp [State.setList, State.list]
@[simp] theorem State.list_setList_ne (i j : Level) (x : List Tag) (h : j ≠ i) :
    (s.setList i x).list j = s.list j := by
  simp [State.setList, State.list, h]
@[simp] theorem State.setList_inReset (i : Level) (x : List Tag) : (s.setList i x).inReset = s.inReset := rfl
@[simp] theorem State.setList_clocked (i : Level) (x : List Tag) : (s.setList i x).clocked = s.clocked := rfl
@[simp] theorem State.occ_setList (i : Level) (x : List Tag) (t : Tag) : (s.setList i x).occ t = s.occ t := rfl

/-! ### setOcc and setTimer -/

@[simp] theorem State.occ_setOcc_same (t : Tag) (c : Occurrence) : (s.setOcc t c).occ t = some c := by
  simp [State.setOcc, State.occ]
@[simp] theorem State.occ_setOcc_ne (t u : Tag) (c : Occurrence) (h : u ≠ t) :
    (s.setOcc t c).occ u = s.occ u := by
  simp [State.setOcc, h]
@[simp] theorem State.record_setTimer_same (t : Tag) (x : Timer) :
    (s.setTimer t x).record t = { s.record t with timer := x } := by
  simp [State.setTimer]
@[simp] theorem State.occ_setTimer (t u : Tag) (x : Timer) : (s.setTimer t x).occ u = s.occ u := by
  by_cases h : u = t
  · subst h; simp [State.setTimer, State.occ]
  · simp [State.setTimer, State.occ, h]
@[simp] theorem State.setOcc_epoch (t u : Tag) (c : Occurrence) :
    ((s.setOcc t c).record u).epoch = (s.record u).epoch := by
  by_cases h : u = t
  · subst h; simp [State.setOcc]
  · simp [State.setOcc, h]
@[simp] theorem State.setTimer_epoch (t u : Tag) (x : Timer) :
    ((s.setTimer t x).record u).epoch = (s.record u).epoch := by
  by_cases h : u = t
  · subst h; simp [State.setTimer]
  · simp [State.setTimer, h]

end Sys2Proof.Machine
end

