-- ==== Sys2Proof/Laws/Pool.lean ====
section
/-! SUPPORT. What the operations of the Occurrence Pool can do, once each: what lies outside the pool and the
tables of sources and groups is kept, and what each operation makes of its record. -/

namespace Sys2Proof.Machine

/-- What no operation of the pool touches: pins, clock, Policy, ports, the Host Contexts, the session, the
ATTN outputs, and the model's own fields. -/
def State.besidePool (s : State) :
    Bool × Nat × Bool × Bool × BitVec 48 × Table Bool 4 × Table HostContext 4 × Option Session × Policy ×
      Table Port 4 × Nat × List Instr :=
  (s.refclk, s.divider, s.rstnHold, s.powerHold, s.rawLevels, s.attn, s.hosts, s.session, s.policy, s.ports, s.choices,
    s.pending)

variable (s : State)

@[simp] theorem State.besidePool_setRecord (i : Tag) (x : Record) :
    (s.setRecord i x).besidePool = s.besidePool := rfl
@[simp] theorem State.besidePool_setLine (i : LineId) (x : LineSource) :
    (s.setLine i x).besidePool = s.besidePool := rfl
@[simp] theorem State.besidePool_setPosted (i : PostedId) (x : PostedSource) :
    (s.setPosted i x).besidePool = s.besidePool := rfl
@[simp] theorem State.besidePool_setGroup (i : GroupId) (x : Group) :
    (s.setGroup i x).besidePool = s.besidePool := rfl
@[simp] theorem State.besidePool_setList (i : Level) (x : List Tag) :
    (s.setList i x).besidePool = s.besidePool := rfl
@[simp] theorem State.besidePool_setOcc (i : Tag) (x : Occurrence) :
    (s.setOcc i x).besidePool = s.besidePool := rfl
@[simp] theorem State.besidePool_setTimer (i : Tag) (x : Timer) :
    (s.setTimer i x).besidePool = s.besidePool := rfl

@[simp] theorem State.besidePool_advanceSeq (o : Origin) : (s.advanceSeq o).besidePool = s.besidePool := by
  cases o <;> rfl

@[simp] theorem joinList_besidePool (t : Tag) (l : Level) : (joinList t l s).besidePool = s.besidePool := rfl
@[simp] theorem leaveList_besidePool (t : Tag) (l : Level) : (leaveList t l s).besidePool = s.besidePool := rfl

@[simp] theorem enterPending_besidePool (t : Tag) (c : Occurrence) :
    (enterPending t c s).besidePool = s.besidePool := rfl

@[simp] theorem openRecord_besidePool (t : Tag) : (openRecord t s).besidePool = s.besidePool := by
  unfold openRecord
  split
  · split <;> rfl
  · rfl

theorem foldl_besidePool {α : Type} (f : State → α → State)
    (hf : ∀ s x, (f s x).besidePool = s.besidePool) (l : List α) :
    ∀ s, (l.foldl f s).besidePool = s.besidePool := by
  induction l with
  | nil => intro s; rfl
  | cons x l ih => intro s; rw [List.foldl_cons, ih, hf]

@[simp] theorem openWindowsOf_besidePool (h : HostId) : (openWindowsOf h s).besidePool = s.besidePool := by
  apply foldl_besidePool
  intro s t
  split <;> simp

@[simp] theorem moveLevel_besidePool (o : Origin) (l : Level) :
    (moveLevel o l s).besidePool = s.besidePool := by
  unfold moveLevel
  split
  · split <;> simp
  · rfl

@[simp] theorem openOrigin_besidePool (o : Origin) : (openOrigin o s).besidePool = s.besidePool := by
  unfold openOrigin
  split <;> simp

@[simp] theorem setLive_besidePool (o : Origin) (x : Option Tag) :
    (setLive o x s).besidePool = s.besidePool := by
  cases o <;> rfl

@[simp] theorem createRecord_besidePool (t : Tag) (o : Origin) (m : Nat) (p : Option PostedFields)
    (e : HostSet) : (createRecord t o m p e s).besidePool = s.besidePool := by
  simp [createRecord]

@[simp] theorem mergeInto_besidePool (t : Tag) (k : Nat) : (mergeInto t k s).besidePool = s.besidePool := by
  unfold mergeInto
  split <;> simp

@[simp] theorem setAgain_besidePool (t : Tag) : (setAgain t s).besidePool = s.besidePool := by
  unfold setAgain
  split <;> simp

@[simp] theorem setLineStarved_besidePool (n : LineId) (x : Option Nat) :
    (setLineStarved n x s).besidePool = s.besidePool := rfl
@[simp] theorem setGroupStarved_besidePool (g : GroupId) (x : Bool) :
    (setGroupStarved g x s).besidePool = s.besidePool := rfl

@[simp] theorem createForLine_besidePool (n : LineId) : (createForLine n s).besidePool = s.besidePool := by
  unfold createForLine
  split <;> simp

@[simp] theorem triggerLine_besidePool (n : LineId) : (triggerLine n s).besidePool = s.besidePool := by
  unfold triggerLine
  repeat' split
  all_goals simp

@[simp] theorem requestGroup_besidePool (g : GroupId) : (requestGroup g s).besidePool = s.besidePool := by
  unfold requestGroup
  split <;> simp

@[simp] theorem memberTrigger_besidePool (n : LineId) (g : GroupId) :
    (memberTrigger n g s).besidePool = s.besidePool := by
  unfold memberTrigger
  dsimp only
  repeat' split
  all_goals simp

@[simp] theorem fire_besidePool (n : LineId) : (fire n s).besidePool = s.besidePool := by
  unfold fire
  split <;> simp

@[simp] theorem levelTest_besidePool (n : LineId) : (levelTest n s).besidePool = s.besidePool := by
  unfold levelTest
  repeat' split
  all_goals simp

@[simp] theorem clearStarved_besidePool (o : Origin) : (clearStarved o s).besidePool = s.besidePool := by
  cases o <;> rfl

@[simp] theorem grantCheck_besidePool (t : Tag) : (grantCheck t s).besidePool = s.besidePool := by
  unfold grantCheck grant
  split <;> simp

@[simp] theorem freeRecord_besidePool (t : Tag) : (freeRecord t s).besidePool = s.besidePool := by
  unfold freeRecord
  split
  · simp only [grantCheck_besidePool, setLive_besidePool, State.besidePool_setRecord]
    split <;> simp
  · rfl

@[simp] theorem withdraw_besidePool (o : Origin) : (withdraw o s).besidePool = s.besidePool := by
  unfold withdraw
  split <;> simp

@[simp] theorem fireMembers_besidePool (g : GroupId) (ns : List LineId) :
    (fireMembers g ns s).besidePool = s.besidePool := by
  apply foldl_besidePool
  intro s n
  split <;> simp

@[simp] theorem fireStandingMembers_besidePool (g : GroupId) :
    (fireStandingMembers g s).besidePool = s.besidePool := fireMembers_besidePool s g _

/-! ### What each operation makes of its record -/

/-- Entry to a PENDING state (R30, R34, R51, R55): the record is PENDING_EXCL with its window started, or
PENDING_OPEN with its timer stopped; its epoch is kept and it stands at the tail of its list. -/
theorem enterPending_record (t : Tag) (c : Occurrence) :
    (∃ p, s.windowHost (s.termsOf c.origin) c.exclusion = some p ∧
      (enterPending t c s).record t =
        { epoch := (s.record t).epoch, timer := .running (s.termsOf c.origin).window.toNat
          occ := some { c with phase := .pendingExcl } }) ∨
    (s.windowHost (s.termsOf c.origin) c.exclusion = none ∧
      (enterPending t c s).record t =
        { epoch := (s.record t).epoch, timer := .stopped
          occ := some { c with phase := .pendingOpen } }) := by
  cases hw : s.windowHost (s.termsOf c.origin) c.exclusion with
  | some p => exact .inl ⟨p, rfl, by simp [enterPending, hw, joinList, Timer.start]⟩
  | none => exact .inr ⟨rfl, by simp [enterPending, hw, joinList]⟩

theorem enterPending_list (t : Tag) (c : Occurrence) :
    (enterPending t c s).list c.level = s.list c.level ++ [t] := by
  simp [enterPending, joinList]

theorem enterPending_list_ne (t : Tag) (c : Occurrence) (l : Level) (h : l ≠ c.level) :
    (enterPending t c s).list l = s.list l := by
  simp [enterPending, joinList, h]

theorem enterPending_record_ne (t u : Tag) (c : Occurrence) (h : u ≠ t) :
    (enterPending t c s).record u = s.record u := by
  simp [enterPending, joinList, h]

/-- The opening of a record (R54): only a PENDING_EXCL record changes, and only its state and timer. -/
theorem openRecord_record (t u : Tag) :
    (openRecord t s).record u = s.record u ∨
    (u = t ∧ ∃ c, s.occ t = some c ∧ c.phase = .pendingExcl ∧
      (openRecord t s).record t =
        { s.record t with timer := .stopped, occ := some { c with phase := .pendingOpen } }) := by
  unfold openRecord
  split
  · rename_i c hc
    split
    · rename_i hp
      by_cases hu : u = t
      · subst hu; exact .inr ⟨rfl, c, hc, hp, by simp⟩
      · exact .inl (by simp [hu])
    · exact .inl rfl
  · exact .inl rfl

theorem openRecord_lists (t : Tag) : (openRecord t s).lists = s.lists := by
  unfold openRecord
  split
  · split <;> rfl
  · rfl

/-- A trigger of a line source's own origin does one of these (R17, R23, R35, R36, R37): it is counted
while starved, it asks for a record, it merges into the pending record, or it sets Again. -/
theorem triggerLine_cases (n : LineId) :
    (∃ k, (s.line n).starved = some k ∧
      triggerLine n s = setLineStarved n (some (saturate Config.countMax k 1)) s) ∨
    ((s.line n).starved = none ∧ triggerLine n s = createForLine n s ∧
      ((s.line n).desc.sense.isLevel = true ∨
        (s.pendingTag (.line n) = none ∧
          ((s.line n).desc.clearPolicy = .onClaim ∨ s.claimedTag (.line n) = none)))) ∨
    (∃ t, (s.line n).starved = none ∧ (s.line n).desc.sense.isLevel = false ∧
      s.pendingTag (.line n) = some t ∧ triggerLine n s = mergeInto t 1 s) ∨
    (∃ t, (s.line n).starved = none ∧ (s.line n).desc.sense.isLevel = false ∧
      s.pendingTag (.line n) = none ∧ (s.line n).desc.clearPolicy = .onComplete ∧
      s.claimedTag (.line n) = some t ∧ triggerLine n s = setAgain t s) := by
  unfold triggerLine
  cases hs : (s.line n).starved with
  | some k => exact .inl ⟨k, rfl, rfl⟩
  | none =>
    refine .inr ?_
    cases hl : (s.line n).desc.sense.isLevel with
    | true => exact .inl ⟨rfl, by simp, .inl rfl⟩
    | false =>
      cases hp : s.pendingTag (.line n) with
      | some t => exact .inr (.inl ⟨t, rfl, rfl, rfl, by simp⟩)
      | none =>
        cases hc : (s.line n).desc.clearPolicy with
        | onClaim => exact .inl ⟨rfl, by simp, .inr ⟨rfl, .inl rfl⟩⟩
        | onComplete =>
          cases ht : s.claimedTag (.line n) with
          | some t => exact .inr (.inr ⟨t, rfl, rfl, rfl, rfl, rfl, by simp⟩)
          | none => exact .inl ⟨rfl, by simp, .inr ⟨rfl, .inr rfl⟩⟩

/-- A freed record without a starved origin (R41): only the freed record, its list and its group change. -/
theorem freeRecord_unstarved (t : Tag) (c : Occurrence) (hc : s.occ t = some c)
    (hg : (setLive c.origin none
      ((if c.phase.isPending then leaveList t c.level s else s).setRecord t
        { epoch := (s.record t).epoch, timer := .stopped, occ := none })).grantChoice = none) :
    freeRecord t s = setLive c.origin none
      ((if c.phase.isPending then leaveList t c.level s else s).setRecord t
        { epoch := (s.record t).epoch, timer := .stopped, occ := none }) := by
  unfold freeRecord
  rw [hc]
  have he : ((if c.phase.isPending then leaveList t c.level s else s).record t) = s.record t := by
    split <;> rfl
  simp only [he, grantCheck, hg]

end Sys2Proof.Machine
end

