-- ==== Sys2Proof/Laws/Hosts.lean ====
section
/-! SUPPORT. What notices, returns, revocations and presence changes can do, once each. -/

namespace Sys2Proof.Machine

/-- What no event of the pool or of the Host Contexts touches: pins, clock, Policy, ports, ATTN, and the
model's own fields. -/
def State.besideHosts (s : State) :
    Bool × Nat × Bool × Bool × BitVec 48 × Table Bool 4 × Policy × Table Port 4 × Nat × List Instr :=
  (s.refclk, s.divider, s.rstnHold, s.powerHold, s.rawLevels, s.attn, s.policy, s.ports, s.choices, s.pending)

variable (s : State)

theorem State.besideHosts_of_pool {s t : State} (h : t.besidePool = s.besidePool) :
    t.besideHosts = s.besideHosts := by
  simp only [State.besidePool, Prod.mk.injEq] at h
  simp [State.besideHosts, h]

theorem State.hosts_of_pool {s t : State} (h : t.besidePool = s.besidePool) : t.hosts = s.hosts := by
  simp only [State.besidePool, Prod.mk.injEq] at h
  exact h.2.2.2.2.2.2.1

theorem State.session_of_pool {s t : State} (h : t.besidePool = s.besidePool) :
    t.session = s.session := by
  simp only [State.besidePool, Prod.mk.injEq] at h
  exact h.2.2.2.2.2.2.2.1

@[simp] theorem State.besideHosts_setHost (h : HostId) (c : HostContext) :
    (s.setHost h c).besideHosts = s.besideHosts := rfl
@[simp] theorem State.besideHosts_setGroup (g : GroupId) (x : Group) :
    (s.setGroup g x).besideHosts = s.besideHosts := rfl
@[simp] theorem State.besideHosts_setOcc (t : Tag) (x : Occurrence) :
    (s.setOcc t x).besideHosts = s.besideHosts := rfl
@[simp] theorem State.besideHosts_setTimer (t : Tag) (x : Timer) :
    (s.setTimer t x).besideHosts = s.besideHosts := rfl
@[simp] theorem State.besideHosts_session (x : Option Session) :
    ({ s with session := x } : State).besideHosts = s.besideHosts := rfl

/-! ### Notices -/

/-- A notice at a queue (R144): placed at the tail while fewer than 8 are queued, dropped with the flag set
otherwise. -/
theorem enqueue_cases (c : HostContext) (n : Notice) :
    (c.queue.length < Config.queueDepth ∧ c.enqueue n = { c with queue := c.queue ++ [n] }) ∨
    (Config.queueDepth ≤ c.queue.length ∧ c.enqueue n = { c with overflow := true }) := by
  unfold HostContext.enqueue
  by_cases h : c.queue.length < Config.queueDepth
  · exact .inl ⟨h, by simp [h]⟩
  · exact .inr ⟨Nat.le_of_not_lt h, by simp [h]⟩

/-- A notice handed to a queue (R142): only a PRESENT or DRAINING host's context changes. -/
theorem place_cases (h : HostId) (n : Notice) :
    ((s.host h).presence.takesNotices = true ∧ place h n s = s.setHost h ((s.host h).enqueue n)) ∨
    ((s.host h).presence.takesNotices = false ∧ place h n s = s) := by
  unfold place
  cases hp : (s.host h).presence.takesNotices
  · exact .inr ⟨rfl, by simp⟩
  · exact .inl ⟨rfl, by simp⟩

@[simp] theorem enqueue_presence (c : HostContext) (n : Notice) :
    (c.enqueue n).presence = c.presence := by
  unfold HostContext.enqueue; split <;> rfl
@[simp] theorem enqueue_floor (c : HostContext) (n : Notice) : (c.enqueue n).floor = c.floor := by
  unfold HostContext.enqueue; split <;> rfl
@[simp] theorem enqueue_generation (c : HostContext) (n : Notice) :
    (c.enqueue n).generation = c.generation := by
  unfold HostContext.enqueue; split <;> rfl
@[simp] theorem enqueue_strikes (c : HostContext) (n : Notice) : (c.enqueue n).strikes = c.strikes := by
  unfold HostContext.enqueue; split <;> rfl
@[simp] theorem enqueue_stack (c : HostContext) (n : Notice) : (c.enqueue n).stack = c.stack := by
  unfold HostContext.enqueue; split <;> rfl

/-- A queue that a notice is handed to still holds at most 8 (R141, R144). -/
theorem enqueue_queue_le (c : HostContext) (n : Notice) (hc : c.queue.length ≤ Config.queueDepth) :
    (c.enqueue n).queue.length ≤ Config.queueDepth := by
  rcases enqueue_cases c n with ⟨hl, he⟩ | ⟨_, he⟩
  · rw [he]; simp; omega
  · rw [he]; exact hc

/-- What a notice leaves of every Host Context: all but its queue and overflow flag. -/
def HostContext.standing (c : HostContext) : Presence × Option Level × Byte × Nat × List StackEntry :=
  (c.presence, c.floor, c.generation, c.strikes, c.stack)

@[simp] theorem enqueue_standing (c : HostContext) (n : Notice) : (c.enqueue n).standing = c.standing := by
  simp [HostContext.standing]

@[simp] theorem place_besideHosts (h : HostId) (n : Notice) : (place h n s).besideHosts = s.besideHosts := by
  unfold place; split <;> rfl

@[simp] theorem place_session (h : HostId) (n : Notice) : (place h n s).session = s.session := by
  unfold place; split <;> rfl

@[simp] theorem place_standing (h g : HostId) (n : Notice) :
    ((place h n s).host g).standing = (s.host g).standing := by
  unfold place
  split
  · by_cases hg : g = h
    · subst hg; simp
    · simp [hg]
  · rfl

/-- A property that every placement keeps is kept by a notice for several hosts. -/
theorem placeAll_keeps {β : Type} (f : State → β) (n : Notice)
    (hf : ∀ h s, f (place h n s) = f s) (who : HostId → Bool) : f (placeAll who n s) = f s := by
  have key : ∀ (l : List HostId) (s : State),
      f (l.foldl (fun s h => if who h then place h n s else s) s) = f s := by
    intro l
    induction l with
    | nil => intro s; rfl
    | cons h l ih =>
      intro s
      rw [List.foldl_cons, ih]
      split
      · exact hf h s
      · rfl
  exact key hostIds s

@[simp] theorem placeAll_besideHosts (who : HostId → Bool) (n : Notice) :
    (placeAll who n s).besideHosts = s.besideHosts :=
  placeAll_keeps s State.besideHosts n (fun h s => place_besideHosts s h n) who

@[simp] theorem placeAll_session (who : HostId → Bool) (n : Notice) :
    (placeAll who n s).session = s.session :=
  placeAll_keeps s State.session n (fun h s => place_session s h n) who

@[simp] theorem placeAll_standing (who : HostId → Bool) (n : Notice) (g : HostId) :
    ((placeAll who n s).host g).standing = (s.host g).standing :=
  placeAll_keeps s (fun s => (s.host g).standing) n (fun h s => place_standing s h g n) who

@[simp] theorem flush_besideHosts (h : HostId) : (flush h s).besideHosts = s.besideHosts := rfl
@[simp] theorem flush_session (h : HostId) : (flush h s).session = s.session := rfl
@[simp] theorem flush_host_same (h : HostId) :
    (flush h s).host h = { s.host h with queue := [], overflow := false } := by
  simp [flush]
@[simp] theorem flush_host_ne (h g : HostId) (hg : g ≠ h) : (flush h s).host g = s.host g := by
  simp [flush, hg]

/-! ### Returns -/

theorem State.standing_of_pool {s t : State} (h : t.besidePool = s.besidePool) (g : HostId) :
    (t.host g).standing = (s.host g).standing := by
  simp [State.host, State.hosts_of_pool h]

@[simp] theorem abandon_besideHosts (t : Tag) (c : Occurrence) :
    (abandon t c s).besideHosts = s.besideHosts := by
  have h1 : ∀ o s, (refireAfterAbandon o s).besideHosts = s.besideHosts := by
    intro o s
    apply State.besideHosts_of_pool
    unfold refireAfterAbandon requestAfterAbandon
    split
    · simp
    · split <;> simp
    · rfl
  have h2 : ∀ s, (noticePostedAbandoned c s).besideHosts = s.besideHosts := by
    intro s
    unfold noticePostedAbandoned
    split
    · split <;> simp
    · rfl
  simp only [abandon, h1, h2, noticeAbandoned, placeAll_besideHosts]
  exact State.besideHosts_of_pool (freeRecord_besidePool s t)

theorem abandon_session (t : Tag) (c : Occurrence) : (abandon t c s).session = s.session := by
  have h1 : ∀ o s, (refireAfterAbandon o s).session = s.session := by
    intro o s
    apply State.session_of_pool
    unfold refireAfterAbandon requestAfterAbandon
    split
    · simp
    · split <;> simp
    · rfl
  have h2 : ∀ s, (noticePostedAbandoned c s).session = s.session := by
    intro s
    unfold noticePostedAbandoned
    split
    · split <;> simp
    · rfl
  simp only [abandon, h1, h2, noticeAbandoned, placeAll_session]
  exact State.session_of_pool (freeRecord_besidePool s t)

theorem abandon_standing (t : Tag) (c : Occurrence) (g : HostId) :
    ((abandon t c s).host g).standing = (s.host g).standing := by
  have h1 : ∀ o s, ((refireAfterAbandon o s).host g).standing = (s.host g).standing := by
    intro o s
    apply State.standing_of_pool
    unfold refireAfterAbandon requestAfterAbandon
    split
    · simp
    · split <;> simp
    · rfl
  have h2 : ∀ s, ((noticePostedAbandoned c s).host g).standing = (s.host g).standing := by
    intro s
    unfold noticePostedAbandoned
    split
    · split <;> simp
    · rfl
  simp only [abandon, h1, h2, noticeAbandoned, placeAll_standing]
  exact State.standing_of_pool (freeRecord_besidePool s t) g

theorem mergeBack_besidePool (c : Occurrence) : (mergeBack c s).besidePool = s.besidePool := by
  unfold mergeBack; split <;> rfl

theorem mergeReturn_besidePool (u : Tag) (c : Occurrence) :
    (mergeReturn u c s).besidePool = s.besidePool := by
  unfold mergeReturn
  dsimp only
  repeat' split
  all_goals simp

theorem absorbStarved_besidePool (c : Occurrence) :
    (absorbStarved c s).2.besidePool = s.besidePool := by
  unfold absorbStarved
  repeat' split
  all_goals rfl

theorem returnKept_besidePool (t : Tag) (c : Occurrence) :
    (returnKept t c s).1.besidePool = s.besidePool := by
  unfold returnKept
  dsimp only
  split
  · simp [mergeReturn_besidePool, mergeBack_besidePool]
  · simp [absorbStarved_besidePool, mergeBack_besidePool]

/-- A return takes one of these courses (R45, R46, R47): it is withdrawn, abandoned, or kept, by the
enabled field and the reoffer limit of the origin; only a CLAIMED record returns. -/
theorem returnRecord_cases (t : Tag) (h : HostId) (c : Occurrence) (hc : s.occ t = some c)
    (hp : c.phase.isClaimed = true) :
    (s.enabledOf c.origin = false ∧
      returnRecord t h s = (freeRecord t (s.setTimer t .stopped), .withdrawn)) ∨
    (s.enabledOf c.origin = true ∧ (s.termsOf c.origin).reofferLimit.val < c.reoffer + 1 ∧
      returnRecord t h s = (abandon t { c with
        exclusion := enlarge (s.termsOf c.origin).route c.exclusion (hostBit h)
        reoffer := c.reoffer + 1 } (s.setTimer t .stopped), .abandoned)) ∨
    (s.enabledOf c.origin = true ∧ c.reoffer + 1 ≤ (s.termsOf c.origin).reofferLimit.val ∧
      returnRecord t h s = returnKept t { c with
        exclusion := enlarge (s.termsOf c.origin).route c.exclusion (hostBit h)
        reoffer := c.reoffer + 1 } (s.setTimer t .stopped)) := by
  have e1 : (s.setTimer t .stopped).enabledOf c.origin = s.enabledOf c.origin := by
    cases c.origin <;> rfl
  have e2 : (s.setTimer t .stopped).termsOf c.origin = s.termsOf c.origin := by
    cases c.origin <;> rfl
  unfold returnRecord
  simp only [hc, hp, if_true, e1, e2]
  cases he : s.enabledOf c.origin
  · exact .inl ⟨rfl, by simp⟩
  · by_cases hl : (s.termsOf c.origin).reofferLimit.val < c.reoffer + 1
    · exact .inr (.inl ⟨rfl, hl, by simp [hl]⟩)
    · exact .inr (.inr ⟨rfl, Nat.le_of_not_lt hl, by simp [hl]⟩)

/-- A record that is not CLAIMED does not return. -/
theorem returnRecord_unclaimed (t : Tag) (h : HostId)
    (hn : ∀ c, s.occ t = some c → c.phase.isClaimed = false) : (returnRecord t h s).1 = s := by
  unfold returnRecord
  cases hc : s.occ t with
  | none => rfl
  | some c => simp [hn c hc]

/-- A return keeps pins, clock, Policy, ports, the session, and every Host Context but its queue and
overflow flag. -/
theorem returnRecord_keeps (t : Tag) (h : HostId) :
    (returnRecord t h s).1.besideHosts = s.besideHosts ∧
    (returnRecord t h s).1.session = s.session ∧
    ∀ g, ((returnRecord t h s).1.host g).standing = (s.host g).standing := by
  cases hc : s.occ t with
  | none => rw [returnRecord_unclaimed s t h (by simp [hc])]; exact ⟨rfl, rfl, fun _ => rfl⟩
  | some c =>
    cases hp : c.phase.isClaimed with
    | false =>
      rw [returnRecord_unclaimed s t h (by simp [hc, hp])]; exact ⟨rfl, rfl, fun _ => rfl⟩
    | true =>
      have ht := State.besidePool_setTimer s t .stopped
      rcases returnRecord_cases s t h c hc hp with ⟨_, hr⟩ | ⟨_, _, hr⟩ | ⟨_, _, hr⟩
      · have hf := (freeRecord_besidePool (s.setTimer t .stopped) t).trans ht
        rw [hr]
        exact ⟨State.besideHosts_of_pool hf, State.session_of_pool hf, State.standing_of_pool hf⟩
      · rw [hr]
        exact ⟨by simp, by rw [abandon_session]; rfl, fun g => by rw [abandon_standing]; rfl⟩
      · have hf := (returnKept_besidePool (s.setTimer t .stopped) t { c with
          exclusion := enlarge (s.termsOf c.origin).route c.exclusion (hostBit h)
          reoffer := c.reoffer + 1 }).trans ht
        rw [hr]
        exact ⟨State.besideHosts_of_pool hf, State.session_of_pool hf, State.standing_of_pool hf⟩

/-! ### Requests at a port -/

/-- A property that a free choice and the carrying out of a waiting request keep is kept by `catchUp`. -/
theorem carryOutBefore_keeps (P : State → Prop) (hchoice : ∀ s, P s → P { s with choices := s.choices + 1 })
    (hcarry : ∀ g s, P s → P (carryOutAhead g s)) (bound : Nat) :
    ∀ (k : Nat) (s : State), P s → P (carryOutBefore k bound s) := by
  intro k
  induction k with
  | zero => intro s hs; exact hs
  | succ k ih =>
    intro s hs
    unfold carryOutBefore
    split
    · exact hs
    · exact ih _ (hcarry _ _ hs)
    · exact ih _ (hcarry _ _ (hchoice s hs))

theorem catchUp_keeps (P : State → Prop) (hchoice : ∀ s, P s → P { s with choices := s.choices + 1 })
    (hcarry : ∀ g s, P s → P (carryOutAhead g s)) (bound : Nat) (hs : P s) : P (catchUp bound s) :=
  carryOutBefore_keeps P hchoice hcarry bound _ s hs

/-- With no request taken before the turn, nothing is to be caught up with. -/
theorem catchUp_of_none (bound : Nat) (hs : ∀ g k, s.turnAt g = some k → bound ≤ k) : catchUp bound s = s := by
  have hw : s.waitingBefore bound = [] := by
    rw [State.waitingBefore, List.filter_eq_nil_iff]
    intro g _ hg
    cases hk : s.turnAt g with
    | none => simp [hk] at hg
    | some k => have := hs g k hk; simp [hk] at hg; omega
  have hf : s.firstBefore bound = [] := by simp [State.firstBefore, hw]
  show carryOutBefore 4 bound s = s
  rw [carryOutBefore, hf]

/-- What a request row does at its port, once (log entries 6 and 27): nothing while chip reset is asserted; the
request is carried out, after those taken before it; its frame is kept unjudged; the request was carried out ahead of
its row; or it is discarded as an overrun. -/
theorem serve_cases (h : HostId) (rt : RequestTag) (req : Request) :
    (s.inReset = true ∧ serve h rt req s = s) ∨
    (s.inReset = false ∧
      ∃ bound, ((s.port h).work = .idle ∧ s.refclk = true ∧ bound = s.nextTurn ∨
        (s.port h).work = .taken rt req bound) ∧
      serve h rt req s = answerRequest h rt req (catchUp bound s)) ∨
    (s.inReset = false ∧ (s.port h).work = .idle ∧ s.refclk = false ∧
      serve h rt req s = takeFrame h (requestFrame rt req) s) ∨
    (s.inReset = false ∧ ∃ frame, (s.port h).work = .carried rt req frame ∧
      serve h rt req s = s.setPort h { s.port h with work := .answered frame }) ∨
    (s.inReset = false ∧ (s.port h).work ≠ .idle ∧ (∀ turn, (s.port h).work ≠ .taken rt req turn) ∧
      (∀ frame, (s.port h).work ≠ .carried rt req frame) ∧ serve h rt req s = overrunPort h s) := by
  unfold serve
  cases hr : s.inReset
  · refine .inr ?_
    cases hw : (s.port h).work with
    | idle =>
      cases hc : s.refclk
      · exact .inr (.inl ⟨rfl, rfl, rfl, by simp⟩)
      · exact .inl ⟨rfl, _, .inl ⟨rfl, rfl, rfl⟩, by simp⟩
    | taken rt' req' turn =>
      by_cases he : rt' = rt ∧ req' = req
      · obtain ⟨rfl, rfl⟩ := he
        exact .inl ⟨rfl, _, .inr rfl, by simp⟩
      · exact .inr (.inr (.inr ⟨rfl, by simp, by simpa [← and_assoc] using he, by simp, by simp [he]⟩))
    | carried rt' req' frame =>
      by_cases he : rt' = rt ∧ req' = req
      · obtain ⟨rfl, rfl⟩ := he
        exact .inr (.inr (.inl ⟨rfl, _, rfl, by simp⟩))
      · exact .inr (.inr (.inr ⟨rfl, by simp, by simp, by simpa [← and_assoc] using he, by simp [he]⟩))
    | unjudged => exact .inr (.inr (.inr ⟨rfl, by simp, by simp, by simp, by simp⟩))
    | answered f => exact .inr (.inr (.inr ⟨rfl, by simp, by simp, by simp, by simp⟩))
  · exact .inl ⟨rfl, by simp⟩

/-- A request at its blocks, once (R122): refused at the presence check with no change, or carried out by
the rule that owns it. -/
theorem carryOut_cases (h : HostId) (req : Request) :
    (∃ code, refusal (admissionOf req) (s.host h).presence = some code ∧
      carryOut h req s = (s, bare code)) ∨
    (refusal (admissionOf req) (s.host h).presence = none ∧
      carryOut h req s = performRequest h req s) := by
  unfold carryOut
  cases hr : refusal (admissionOf req) (s.host h).presence with
  | some code => exact .inl ⟨code, rfl, rfl⟩
  | none => exact .inr ⟨rfl, rfl⟩

/-- A valid token names a record that host `h` holds CLAIMED at the token's epoch (R75). -/
theorem validToken_sound (h : HostId) (tag epoch : Byte) (t : Tag) (c : Occurrence)
    (hv : s.validToken h tag epoch = some (t, c)) :
    tag.toNat = t.val ∧ s.occ t = some c ∧ (∃ k ms, c.phase = .claimed h k ms) ∧
      (s.record t).epoch = epoch := by
  unfold State.validToken at hv
  split at hv
  · dsimp only at hv
    split at hv
    · split at hv
      · split at hv
        · rename_i hh
          obtain ⟨rfl, he⟩ := hh
          simp only [Option.some.injEq, Prod.mk.injEq] at hv
          obtain ⟨rfl, rfl⟩ := hv
          exact ⟨rfl, ‹_›, ⟨_, _, ‹_›⟩, he⟩
        · cases hv
      · cases hv
    · cases hv
  · cases hv

/-- A record that host `h` holds CLAIMED at an epoch makes a valid token of its tag and that epoch (R75). -/
theorem validToken_complete (h : HostId) (tag epoch : Byte) (t : Tag) (c : Occurrence) (k : Nat)
    (ms : List LineId) (ht : tag.toNat = t.val) (hc : s.occ t = some c)
    (hp : c.phase = .claimed h k ms) (he : (s.record t).epoch = epoch) :
    s.validToken h tag epoch = some (t, c) := by
  have hlt : tag.toNat < 32 := ht ▸ t.isLt
  have : (⟨tag.toNat, hlt⟩ : Tag) = t := Fin.ext ht
  unfold State.validToken
  rw [dif_pos hlt]
  simp only [this, hc, hp, he, and_self, if_true]

end Sys2Proof.Machine
end

