-- ==== Sys2Proof/Laws/Steps.lean ====
section
/-! SUPPORT. What a step can be: the request rows as requests served at a port, the edges of REFCLK, what a free order
of events keeps, and what MISO shows. -/

namespace Sys2Proof.Machine

/-- A request row is its request served at the port of its host. -/
theorem exec_request_row (c : Instr) (h : HostId) (rt : RequestTag) (req : Request) (s : State)
    (hc : rowRequest c = some (h, rt, req)) : exec c s = .next (serve h rt req s) := by
  cases c <;> simp only [rowRequest, Option.some.injEq, Prod.mk.injEq, reduceCtorEq] at hc <;>
    (obtain ⟨rfl, rfl, rfl⟩ := hc; rfl)

/-- A request row that is carried out leaves the answer of its request waiting at the port. -/
theorem serve_of_serves (h : HostId) (rt : RequestTag) (req : Request) (s : State)
    (hs : Serves s h rt req) : serve h rt req s = answerRequest h rt req s := by
  obtain ⟨hr, hw, ht⟩ := hs
  obtain ⟨hw, hc⟩ | hw := hw
  · have hcu : catchUp s.nextTurn s = s := by
      apply catchUp_of_none
      intro g k hg
      exfalso
      have hne : g ≠ h := by rintro rfl; simp [State.turnAt, hw] at hg
      have := ht g hne
      unfold State.turnAt at hg
      split at hg
      · rename_i hgw; simp [takenBefore, hgw, hw] at this
      · cases hg
    simp [serve, hr, hw, hc, hcu]
  · split at hw
    · rename_i rt' req' turn hh
      obtain ⟨rfl, rfl⟩ := of_decide_eq_true hw
      have hcu : catchUp turn s = s := by
        apply catchUp_of_none
        intro g k hg
        unfold State.turnAt at hg
        split at hg
        · rename_i hgw
          cases hg
          by_cases hne : g = h
          · subst hne; rw [hh] at hgw; cases hgw; exact Nat.le_refl _
          · have := ht g hne
            simp [takenBefore, hgw, hh] at this
            exact this
        · cases hg
      simp [serve, hr, hh, hcu]
    · cases hw

/-- An edge of REFCLK that counts, below the top of the divider and at it; and one that does not count (R1, R2, R6). -/
theorem refclkEdge_counts (s : State) (hc : s.clocked = true) (hd : s.divider < Config.dividerTop) :
    refclkEdge s = { s with divider := s.divider + 1 } := by
  simp [refclkEdge, hc, hd]

theorem refclkEdge_boundary (s : State) (hc : s.clocked = true) (hd : Config.dividerTop ≤ s.divider) :
    refclkEdge s = boundary s.rawLevels s := by
  simp [refclkEdge, hc, Nat.not_lt.mpr hd]

theorem refclkEdge_idle (s : State) (hc : s.clocked = false) : refclkEdge s = s := by
  simp [refclkEdge, hc]

/-- The edges that a tick still wants end in its boundary, and in no other. -/
theorem refclkEdges_tick (k : Nat) :
    ∀ s : State, s.clocked = true → Config.dividerTop - s.divider = k →
      refclkEdges (k + 1) s = boundary s.rawLevels { s with divider := max s.divider Config.dividerTop } := by
  induction k with
  | zero =>
    intro s hc hk
    have hd : Config.dividerTop ≤ s.divider := by omega
    rw [refclkEdges, refclkEdges, refclkEdge_boundary s hc hd, Nat.max_eq_left hd]
  | succ k ih =>
    intro s hc hk
    have hd : s.divider < Config.dividerTop := by omega
    have hm : max (s.divider + 1) Config.dividerTop = max s.divider Config.dividerTop := by omega
    rw [refclkEdges, refclkEdge_counts s hc hd, ih { s with divider := s.divider + 1 } hc (by simp; omega)]
    simp only [hm]

/-- TICK_BOUNDARY is the boundary at the levels it gives the pins, or nothing where no edge counts. -/
theorem exec_tickBoundary (levels : BitVec 48) (s : State) :
    exec (.tickBoundary levels) s = .next
      (if s.clocked then
        boundary levels { s with rawLevels := levels, divider := max s.divider Config.dividerTop } else s) := by
  cases hc : s.clocked with
  | false => simp [exec, execTickBoundary, hc]
  | true =>
    simpa [exec, execTickBoundary, hc] using
      refclkEdges_tick _ { s with rawLevels := levels } hc rfl

/-- What every event keeps, and what a free choice keeps, a list of events in a free order keeps. -/
theorem deliverFreely_keeps (P : State → Prop) (hchoice : ∀ s, P s → P { s with choices := s.choices + 1 })
    (hevent : ∀ e s, P s → P (deliver e s)) (k : Nat) :
    ∀ (es : List DueEvent) (s : State), P s → P (deliverFreely k es s) := by
  induction k with
  | zero => intro es s hs; exact hs
  | succ k ih =>
    intro es s hs
    match es with
    | [] => exact hs
    | [e] => exact hevent e s hs
    | e :: e' :: es => exact ih _ _ (hevent _ _ (hchoice s hs))

/-- The same of all events of a list. -/
theorem deliverAll_keeps (P : State → Prop) (hchoice : ∀ s, P s → P { s with choices := s.choices + 1 })
    (hevent : ∀ e s, P s → P (deliver e s)) (es : List DueEvent) (s : State) (hs : P s) :
    P (deliverAll es s) :=
  deliverFreely_keeps P hchoice hevent es.length es s hs

/-- No event, one event: nothing is left to choose. -/
@[simp] theorem deliverAll_nil (s : State) : deliverAll [] s = s := rfl
@[simp] theorem deliverAll_one (e : DueEvent) (s : State) : deliverAll [e] s = deliver e s := rfl

/-- With nothing owed no event is outstanding. -/
theorem outstanding_of_nothingOwed (s : State) (hs : NothingOwed s) : s.outstanding = [] := by
  obtain ⟨hl, hr, hx⟩ := hs
  have h1 : lineIds.filter (fun n => (s.line n).filter.any (fun f => f.completes)) = [] := by
    rw [List.filter_eq_nil_iff]
    intro n _ hn
    have := hl n
    cases hf : (s.line n).filter with
    | none => simp [hf] at hn
    | some f => simp [hf] at hn this; simp [hn] at this
  have h2 : ∀ b, tags.filter (s.dueRecord b) = [] := by
    intro b
    rw [List.filter_eq_nil_iff]
    intro t _ ht
    unfold State.dueRecord at ht
    split at ht
    · simp [hr t] at ht
    · cases ht
  have h3 : s.session.any (fun x => decide (x.timer = .due)) = false := by
    cases hx' : s.session with
    | none => rfl
    | some x => simp [hx'] at hx ⊢; exact hx
  simp [State.outstanding, h1, h2, h3]

/-! ### MISO -/

/-- MISO is driven exactly while a transaction is in progress, at the most significant bit of its status byte (R8). -/
@[simp] theorem Port.misoPin_idle (p : Port) (hp : p.transaction = none) : p.misoPin = none := by
  simp [Port.misoPin, hp]

@[simp] theorem Port.misoPin_driven (p : Port) (x : Transaction) (hp : p.transaction = some x) :
    p.misoPin = some (x.status.getLsbD 7) := by
  simp [Port.misoPin, hp, BitVec.msb_eq_getLsbD_last]

/-- MISO carries one bit at each rising edge of SCK (R8). -/
theorem misoBits_length (x : Transaction) (edges : Nat) : (misoBits x edges).length = edges := by
  simp only [misoBits, List.length_take, List.length_append, List.length_replicate]; omega

end Sys2Proof.Machine
end

