-- ==== Sys2Proof/Tests/Slice0.lean ====
section
/-! SUPPORT. Tests: ill-formed commands that the well-formedness check refuses, single steps whose results come
from the spec, and for every statement with hypotheses a witness that meets them. -/

namespace Sys2Proof.Machine

/-! ### Small states -/

/-- The state after one command. -/
def after (c : Instr) (s : State) : State :=
  match exec c s with
  | .next t => t
  | _ => s

/-- The reply frame that waits at port `h`. -/
def reply (s : State) (h : HostId) : List Byte :=
  match (s.port h).work with
  | .answered f => f
  | _ => []

/-- Every host PRESENT with floor 3, as after a JOIN and a SET_FLOOR of each. -/
def crew : State :=
  { State.reset with
    hosts := Table.const 4 { HostContext.reset with presence := .present, floor := some 3 } }

/-- An enabled line source outside groups. -/
def on (sense : Sense) : SourceDescriptor := { SourceDescriptor.reset with enabled := true, sense := sense }

/-- A settled filter at a level. -/
def steady (level : Bool) : LineFilter :=
  { filtered := level, candidate := level, stable := 0, reference := level, completes := false }

/-- A filter whose last sample completed a change to a level. -/
def changing (level : Bool) : LineFilter :=
  { filtered := !level, candidate := level, stable := 0, reference := !level, completes := true }

def State.withLine (s : State) (n : LineId) (d : SourceDescriptor) (f : LineFilter) : State :=
  s.setLine n { s.line n with desc := d, filter := some f }

def State.withHost (s : State) (h : HostId) (p : Presence) : State :=
  s.setHost h { (HostContext.reset) with
    presence := p, floor := if p = .present then some 3 else none }

/-- The fields of a record of level 2. -/
def fields (o : Origin) (p : Phase) : Occurrence :=
  { origin := o, seq := 7, level := 2, merge := 0, again := false, exclusion := 0, reoffer := 0, phase := p
    posted :=
      if o.kindCode = 2 then some { payload := 0x1234, raiser := 1, notify := true } else none }

/-- A record with these fields at epoch 9, in its list or alone on its holder's stack. -/
def State.withRecord (s : State) (u : Tag) (o : Origin) (p : Phase) (x : Timer) : State :=
  let s := s.setRecord u { epoch := 9, timer := x, occ := some (fields o p) }
  match p with
  | .claimed h _ _ => s.setHost h { s.host h with stack := [⟨u, 2⟩] }
  | _ => s.setList 2 (s.list 2 ++ [u])

/-- Every tag taken by a CLAIMED record of source 40. -/
def State.full (s : State) : State :=
  let r : Record :=
    { epoch := 0, timer := .running 5, occ := some (fields (.line 40) (.claimed 0 0 [])) }
  { s with records := Table.const 32 r }

/-- Line source 0, enabled, edge-sensed, with its record 5 CLAIMED by host 0. -/
def held : State :=
  (State.withLine crew 0 (on .rising) (steady false)).withRecord 5 (.line 0) (.claimed 0 0 []) (.running 4)

/-- The same with the lease expired. -/
def expired : State := held.setTimer 5 .due

/-- Line source `n` is starved with a count of 4. -/
def State.starve (s : State) (n : LineId) : State := s.setLine n { s.line n with starved := some 4 }

/-- Eight notices. -/
def eight : List Notice := List.replicate 8 (.hostFenced 2)

def State.withQueue (s : State) (h : HostId) (q : List Notice) : State :=
  s.setHost h { s.host h with queue := q }

def State.withWork (s : State) (h : HostId) (w : PortWork) : State :=
  s.setPort h { s.port h with work := w }

/-- Port 1 in a transaction that showed the status byte. -/
def State.inTransaction (s : State) (status : Byte) : State :=
  s.setPort 1 { s.port 1 with
    csLow := true, recognising := true, transaction := some { status := status, reply := none, placed := false } }

/-- Port 1 in a transaction that began with the reply `old` in the slot, since replaced by `new`. -/
def State.replaced (s : State) (old new : List Byte) : State :=
  s.setPort 1 { s.port 1 with
    csLow := true, recognising := true, slot := some new
    transaction := some { status := 0x41, reply := some old, placed := true } }

/-- Host 0 holds the OPEN session with a staging list. -/
def State.withSession (s : State) (staging : List StagedEntry) : State :=
  { s with session := some { holder := 0, timer := .running 6, staging := staging } }

/-- The session of `withSession`. -/
def sessionOf (staging : List StagedEntry) : Session :=
  { holder := 0, timer := .running 6, staging := staging }

end Sys2Proof.Machine

namespace Sys2Proof.Tests

set_option Elab.async false

open Sys2Proof Sys2Proof.Machine

/-! ### Ill-formed commands -/

theorem test_floor_4_is_ill_formed : (Instr.setFloor 0 0 4).wellFormed = false := by decide +kernel
theorem test_floor_closed_is_well_formed : (Instr.setFloor 0 0 0xFF).wellFormed = true := by decide +kernel
theorem test_token_tag_32_is_ill_formed :
    (Instr.extend 0 0 32 0).wellFormed = false ∧ (Instr.complete 0 0 32 0).wellFormed = false ∧
      (Instr.handback 0 0 32 0).wellFormed = false := by decide +kernel
theorem test_raise_of_a_line_source_is_ill_formed :
    (Instr.raise 0 0 47 0 0).wellFormed = false ∧ (Instr.raise 0 0 64 0 0).wellFormed = false := by decide +kernel
theorem test_notify_2_is_ill_formed : (Instr.raise 0 0 48 0 2).wellFormed = false := by decide +kernel
theorem test_read_numbers_out_of_range_are_ill_formed :
    (Instr.readRecord 0 0 32).wellFormed = false ∧ (Instr.readSource 0 0 64).wellFormed = false ∧
      (Instr.readGroup 0 0 8).wellFormed = false := by decide +kernel
/-- Byte 1 holds the route set, which may not be empty (R159). -/
theorem test_empty_route_is_ill_formed :
    (Instr.stageSource 0 0 0 ⟨#[0x80, 0x0F, 0, 0xF0, 0], rfl⟩).wellFormed = false ∧
      (Instr.stageGroup 0 0 0 ⟨#[0, 0x0F, 0x80, 0], rfl⟩).wellFormed = false := by decide +kernel
/-- A lease duration of 0 and a timeout of 999 are refused (R160). -/
theorem test_policy_out_of_range_is_ill_formed :
    (Instr.stagePolicy 0 0 ⟨#[0, 0, 0, 1, 0, 1, 0, 1, 0, 0, 0x03, 0xE8], rfl⟩).wellFormed = false ∧
      (Instr.stagePolicy 0 0 ⟨#[0, 1, 0, 1, 0, 1, 0, 1, 0, 0, 0x03, 0xE7], rfl⟩).wellFormed = false := by
  decide +kernel

/-! ### Single steps, with results from the spec -/

/-- The example of R179. -/
theorem test_crc_of_peek_with_tag_1 : requestFrame 1 .peek = [0x13, 0x10, 0xCF] := by decide +kernel
theorem test_frame_of_r179_reads_back : checkFrame [0x13, 0x10, 0xCF] = .passed 1 .peek := by decide +kernel
/-- The table gives no row any bits. -/
theorem test_no_word_spells_a_command : decodeTableWord 32 0x1310CF = none := by decide +kernel

theorem test_chip_reset_empties_a_stack :
    ((after (.chipReset .rstnLow) held).host 0).stack = [] := by decide +kernel
theorem test_release_of_one_of_two_holds_keeps_reset :
    (after (.release .rstn) { State.reset with rstnHold := true, powerHold := true }).inReset = true := by
  decide +kernel
theorem test_no_boundary_while_refclk_is_stopped :
    ((after (.tickBoundary 1) (after .refclkStop held)).record 5).timer = .running 4 := by decide +kernel
theorem test_resume_judges_the_waiting_frame :
    ((after .refclkResume (after (.peek 1 1) { crew with refclk := false })).port 1).work =
      .taken 1 .peek 0 := by decide +kernel
theorem test_boundary_counts_a_lease :
    ((after (.tickBoundary 0) held).record 5).timer = .running 3 := by decide +kernel
/-- With debounce 0 the first sample at a new level completes the change (R12). -/
theorem test_debounce_0_completes_at_once :
    ((after (.tickBoundary 1) held).line 0).filter.any (fun f => f.completes) = true := by decide +kernel
theorem test_rising_edge_creates_a_record :
    (after (.lineChange 0) (State.withLine crew 0 (on .rising) (changing true))).list 3 = [0] := by decide +kernel
theorem test_rising_edge_is_nothing_to_falling :
    (after (.lineChange 0) (State.withLine crew 0 (on .falling) (changing true))).list 3 = [] := by decide +kernel
theorem test_window_expiry_opens :
    (((crew.withRecord 6 (.line 0) .pendingExcl .due |> after (.windowExpiry 6)).occ 6).map
      (fun c => c.phase)) = some .pendingOpen := by decide +kernel
theorem test_lease_expiry_strikes_and_tells :
    ((after (.leaseExpiry 5) expired).host 0).strikes = 1 ∧
      ((after (.leaseExpiry 5) expired).host 0).queue = [.revoked 5 (.line 0) 7] := by decide +kernel
theorem test_session_expiry_tells_the_holder :
    ((after .sessionTimerExpiry { crew with session := some { holder := 0, timer := .due, staging := [] } }).host
      0).queue = [.sessionExpired 0] := by decide +kernel
/-- Present is code 1 in the two high bits (R190). -/
theorem test_status_byte_of_a_present_host :
    ((after (.transactionStart 1 false) crew).port 1).transaction = some { status := 0x40, reply := none, placed := false } := by
  decide +kernel
/-- Draining is code 2, so that the first bit on MISO is 1; between transactions the pin is high-impedance (R8). -/
theorem test_miso_is_driven_in_a_transaction :
    (crew.port 1).misoPin = none ∧
      ((after (.transactionStart 1 false) (crew.withHost 1 .draining)).port 1).misoPin = some true := by
  decide +kernel
/-- MISO carried the status byte and then ones, to the last of the three discarded bits (R8, R172). -/
theorem test_transaction_takes_a_frame :
    ((after (.transactionEnd 1 (bitsOfFrame [0x13, 0x10, 0xCF] ++ [true, false, true]))
      (State.inTransaction crew 0x40)).port 1) =
      { crew.port 1 with
        recognising := true, work := .taken 1 .peek 0
        miso := [false, true] ++ List.replicate 6 false ++ List.replicate 19 true } := by decide +kernel
/-- A wrong CRC byte is answered by the port; and the slot keeps a reply placed after the transaction began (R172). -/
theorem test_transaction_without_a_request :
    ((after (.transactionEnd 1 (bitsOfFrame [0x13, 0x10, 0xCE])) (State.inTransaction crew 0x40)).port 1).work =
      .answered (replyFrame 1 0x13 { code := .frameError, data := [1] }) ∧
    ((after (.transactionEnd 1 (List.replicate 16 true)) (crew.replaced [1] [2])).port 1).slot = some [2] := by
  decide +kernel
theorem test_placement_fills_the_slot :
    ((after (.replyPlacement 1) (State.withWork crew 1 (.answered [1, 2]))).port 1).slot = some [1, 2] := by
  decide +kernel
/-- Generation 1, host 2, part identity 0x64, from ABSENT (R126). -/
theorem test_join_reply :
    (reply (after (.join 2 1) State.reset) 2).take 7 = [0x10, 0x10, 4, 1, 2, 0x64, 0] := by decide +kernel
theorem test_leave_with_a_claim_drains :
    ((after (.leaveGraceful 0 0) held).host 0).presence = .draining := by decide +kernel
theorem test_leave_immediate_returns_the_record :
    (after (.leaveImmediate 0 0) held).list 2 = [5] := by decide +kernel
theorem test_set_floor_reply :
    (reply (after (.setFloor 0 0 0xFF) crew) 0).take 5 = [0, 0x12, 2, 3, 0xFF] := by decide +kernel
/-- One offerable, PRESENT, generation 0, floor 3, no strikes, 31 free, no session, empty stack (R192). -/
theorem test_peek_reply :
    (reply (after (.peek 1 0) (crew.withRecord 4 (.line 0) .pendingOpen .stopped)) 1).take 15 =
      [0, 0x13, 12, 0, 0, 1, 0, 1, 1, 0, 3, 0, 31, 0xFF, 0] := by decide +kernel
theorem test_claim_advances_the_epoch :
    ((after (.claim 1 0) (crew.withRecord 4 (.line 0) .pendingOpen .stopped)).record 4).epoch = 10 := by decide +kernel
theorem test_claim_pushes_the_entry :
    ((after (.claim 1 0) (crew.withRecord 4 (.line 0) .pendingOpen .stopped)).host 1).stack = [⟨4, 2⟩] := by
  decide +kernel
/-- Lease class 1 of the chip reset Policy is 1,000 ticks (R161). -/
theorem test_extend_restarts_the_lease :
    ((after (.extend 0 0 5 9) held).record 5).timer = .running 1000 := by decide +kernel
theorem test_extend_with_an_old_epoch_is_stale :
    ((after (.extend 0 0 5 8) held).record 5).timer = .running 4 := by decide +kernel
theorem test_complete_frees_the_record : (after (.complete 0 0 5 9) held).occ 5 = none := by decide +kernel
theorem test_handback_excludes_the_host :
    ((after (.handback 0 0 5 9) held).occ 5).map (fun c => c.exclusion) = some 1 := by decide +kernel
theorem test_raise_of_a_disabled_source :
    (reply (after (.raise 0 0 48 0x1234 1) crew) 0).take 3 = [8, 0x24, 0] := by decide +kernel
theorem test_take_notice_of_an_empty_queue :
    (reply (after (.takeNotice 0 0) crew) 0).take 5 = [1, 0x28, 2, 0, 0] := by decide +kernel
/-- CLAIMED, kind LINE, timer running: 0xC2; holder byte 0x80 (R192). -/
theorem test_read_record_of_a_claim :
    (reply (after (.readRecord 0 0 5) held) 0).take 13 =
      [0, 0x30, 10, 5, 0xC2, 0, 7, 0x80, 0, 9, 0x80, 0, 4] := by decide +kernel
theorem test_read_source_after_reset :
    (reply (after (.readSource 0 0 1) State.reset) 0).take 12 =
      [0, 0x31, 9, 1, 0x03, 0xFF, 0x03, 0xF1, 0, 0, 0, 0x40] := by decide +kernel
theorem test_read_group_after_reset :
    (reply (after (.readGroup 0 0 7) State.reset) 0).take 13 =
      [0, 0x32, 10, 7, 0x13, 0xFF, 0x03, 0, 0, 0, 0xFF, 0, 0] := by decide +kernel
/-- 100, 1,000, 10,000 and 65,535 ticks, limits 3 and 3, timeout 50,000 (R161). -/
theorem test_read_policy_after_reset :
    (reply (after (.readPolicy 0 0) State.reset) 0).take 15 =
      [0, 0x33, 12, 0, 100, 0x03, 0xE8, 0x27, 0x10, 0xFF, 0xFF, 3, 3, 0xC3, 0x50] := by decide +kernel
theorem test_second_host_is_held_off :
    (reply (after (.openSession 1 0) (State.withSession crew [])) 1).take 4 = [0xA, 0x40, 1, 0] := by decide +kernel
theorem test_stage_source_is_kept_as_staged :
    (after (.stageSource 0 0 2 ⟨#[0x83, 0xFF, 0x03, 0xF1, 0], rfl⟩) (State.withSession crew [])).session.map
      (fun x => x.staging) = some [.line 2 (on .rising)] := by decide +kernel
/-- Bits 6 to 2 of the third byte carry nothing (R160). -/
theorem test_stage_group_is_kept_as_staged :
    (after (.stageGroup 0 0 3 ⟨#[0x13, 0xFF, 0xFF, 0], rfl⟩) (State.withSession crew [])).session.map
      (fun x => x.staging) =
        some [.group 3 { GroupDescriptor.reset with enabled := true }] := by decide +kernel
theorem test_stage_policy_out_of_range_is_refused :
    (reply (after (.stagePolicy 0 0 (Table.const 12 0)) (State.withSession crew [])) 0).take 3 =
      [0xD, 0x43, 0] := by decide +kernel
theorem test_commit_applies_the_descriptor :
    ((after (.commit 0 0) (State.withSession crew [.line 2 (on .rising)])).line 2).desc = on .rising := by
  decide +kernel
theorem test_discard_applies_nothing :
    ((after (.discard 0 0) (State.withSession crew [.line 2 (on .rising)])).line 2).desc.enabled = false := by
  decide +kernel
theorem test_empty_queue_is_one_refclk_edge :
    (match step State.reset with
      | .next t => t.divider
      | _ => 0) = 1 := by decide +kernel
/-- The fortieth edge is a boundary: the first seeds each line at the level of its pin (R1, R13). -/
theorem test_edge_at_39_is_a_boundary :
    (match step { State.reset with divider := 39, rawLevels := 1 } with
      | .next t => (t.divider, (t.line 0).filter.map (fun f => f.filtered))
      | _ => (1, none)) = (0, some true) := by decide +kernel

/-! ### Witnesses: states and operands that meet the hypotheses of the statements, clause by clause -/

/-- PoolAfterRelease: either hold alone. -/
theorem witness_PoolAfterRelease :
    ({ State.reset with rstnHold := true }.inReset = true ∧
      { State.reset with rstnHold := true }.powerHold = false) ∧
    ({ State.reset with powerHold := true }.inReset = true ∧
      { State.reset with powerHold := true }.rstnHold = false) := by decide +kernel

/-- ChipResetAndRelease: chip reset asserted, and not. -/
theorem witness_ChipResetAndRelease :
    held.inReset = false ∧ { held with rstnHold := true, powerHold := true }.inReset = true := by
  decide +kernel

/-- TimeFollowsRefclk: REFCLK stopped; chip reset asserted with a request row; the empty queue with REFCLK
stopped, running below 39, and at 39. -/
theorem witness_TimeFollowsRefclk :
    { held with refclk := false }.refclk = false ∧ { held with rstnHold := true }.inReset = true ∧
      rowRequest (.claim 0 0) ≠ none ∧ held.pending = [] ∧ Clocked held ∧ held.divider < 39 ∧
      (Clocked { held with divider := 39 } ∧ 39 ≤ { held with divider := 39 }.divider) ∧
      Clocked { held with divider := 38 } := by decide +kernel

/-- RefclkResumeJudgesWaitingFrames: a sound frame and a short one wait, a third port waits for nothing. -/
def waiting : State :=
  let s := { crew with refclk := false }
  let s := s.setPort 0 { s.port 0 with work := .unjudged, rx := requestFrame 1 .peek }
  s.setPort 1 { s.port 1 with work := .unjudged, rx := [0x13] }

theorem witness_RefclkResumeJudgesWaitingFrames :
    (waiting.port 0).work = .unjudged ∧ checkFrame (waiting.port 0).rx = .passed 1 .peek ∧
      (waiting.port 1).work = .unjudged ∧ checkFrame (waiting.port 1).rx = .fault 0 0x13 .short ∧
      (waiting.port 2).work ≠ .unjudged := by decide +kernel

/-- Every line seeded low, line 1 with a change in progress. -/
def seeded : State :=
  let x : LineSource := { LineSource.reset with filter := some (steady false) }
  let s := { held with lineSources := Table.const 48 x }
  s.setLine 1 { s.line 1 with filter := some { steady false with candidate := true } }

theorem witness_TickBoundaryCountsAndSamples :
    Clocked seeded ∧ NothingOwed seeded ∧ (∀ n, (seeded.line n).filter ≠ none) ∧
      (seeded.record 5).timer = .running 4 ∧
      (seeded.line 1).filter.any (fun f => decide (f.candidate ≠ f.filtered)) = true := by decide +kernel

/-- Line 0 is HIGH and enabled, and not seeded yet. -/
def unseeded : State := crew.setLine 0 { crew.line 0 with desc := on .high }

/-- SeedingTakesTheFirstSample: with a lowest FREE tag, with a full pool, and where the source does not stand. -/
theorem witness_SeedingTakesTheFirstSample :
    (Clocked unseeded ∧ NothingOwed unseeded ∧ (∀ m, (unseeded.line m).filter = none) ∧
      (∀ v, (unseeded.record v).timer = .stopped) ∧ unseeded.session = none ∧
      (unseeded.line 0).desc.group = none ∧ (∀ m, m ≠ 0 → (unseeded.line m).desc.enabled = false) ∧
      (unseeded.line 0).desc.enabled = true ∧ AtActiveLevel (unseeded.line 0).desc.sense true ∧
      ¬ AtActiveLevel (unseeded.line 0).desc.sense false ∧ NoLiveRecord unseeded (.line 0) ∧
      (unseeded.line 0).starved = none ∧ LowestFree unseeded 0) := by decide +kernel

/-- The same in the enabled group 7, without a live record. -/
def unseededMember : State :=
  (unseeded.setLine 0 { unseeded.line 0 with desc := { on .high with group := some 7 } }).setGroup 7
    { Group.reset with desc := { GroupDescriptor.reset with enabled := true } }

theorem witness_SeedingTakesTheFirstSample_member :
    Clocked unseededMember ∧ NothingOwed unseededMember ∧ (∀ m, (unseededMember.line m).filter = none) ∧
      (∀ v, (unseededMember.record v).timer = .stopped) ∧ unseededMember.session = none ∧
      (∀ m, m ≠ 0 → (unseededMember.line m).desc.enabled = false) ∧
      (unseededMember.line 0).desc.enabled = true ∧ AtActiveLevel (unseededMember.line 0).desc.sense true ∧
      (unseededMember.line 0).desc.group = some 7 ∧ (unseededMember.group 7).desc.enabled = true ∧
      (unseededMember.group 7).starved = false ∧ (unseededMember.group 7).live = none ∧
      LowestFree unseededMember 0 := by decide +kernel

/-- The same with every record PENDING_OPEN. -/
def unseededFull : State :=
  let r : Record := { epoch := 0, timer := .stopped, occ := some (fields (.line 40) .pendingOpen) }
  { unseeded with records := Table.const 32 r }

theorem witness_SeedingTakesTheFirstSample_full :
    Clocked unseededFull ∧ NothingOwed unseededFull ∧ (∀ m, (unseededFull.line m).filter = none) ∧
      (∀ v, (unseededFull.record v).timer = .stopped) ∧ unseededFull.session = none ∧
      (∀ m, m ≠ 0 → (unseededFull.line m).desc.enabled = false) ∧
      NoLiveRecord unseededFull (.line 0) ∧ ∀ v, unseededFull.occ v ≠ none := by decide +kernel

/-- A line whose change to high is to be delivered, and its filter. -/
def edge (d : SourceDescriptor) : State := State.withLine crew 0 d (changing true)

/-- LineChangesThatFireNothing: a disabled source; a rising edge of a FALLING source; a rise of a LOW source,
outside groups and in one. -/
theorem witness_LineChangesThatFireNothing :
    (Clocked (edge SourceDescriptor.reset) ∧
      ((edge SourceDescriptor.reset).line 0).filter = some (changing true) ∧
      (changing true).completes = true ∧ ((edge SourceDescriptor.reset).line 0).desc.enabled = false) ∧
    (Clocked (edge (on .falling)) ∧ ((edge (on .falling)).line 0).filter = some (changing true) ∧
      (on .falling).enabled = true ∧ (on .falling).sense.isLevel = false ∧
      ¬ MatchingEdge (edge (on .falling)) 0 (changing true)) ∧
    (Clocked (edge (on .low)) ∧ ((edge (on .low)).line 0).filter = some (changing true) ∧
      (on .low).sense.isLevel = true ∧ ¬ AtActiveLevel (on .low).sense (changing true).candidate) ∧
    ((edge { on .low with group := some 7 }).line 0).filter = some (changing true) ∧
      ((edge { on .low with group := some 7 }).line 0).desc.group = some 7 := by decide +kernel

/-- EdgeCreatesARecord: no record of the origin; and ON_CLAIM with a CLAIMED one. -/
theorem witness_EdgeCreatesARecord :
    (MatchingEdge (edge (on .rising)) 0 (changing true) ∧
      ((edge (on .rising)).line 0).desc.group = none ∧ ((edge (on .rising)).line 0).starved = none ∧
      NoPendingRecord (edge (on .rising)) (.line 0) ∧ NoClaimedRecord (edge (on .rising)) (.line 0) ∧
      LowestFree (edge (on .rising)) 0) := by decide +kernel

def edgeOnClaim : State :=
  (edge { on .both with clearPolicy := .onClaim }).withRecord 0 (.line 0) (.claimed 0 0 []) (.running 4)

theorem witness_EdgeCreatesARecord_onClaim :
    MatchingEdge edgeOnClaim 0 (changing true) ∧ (edgeOnClaim.line 0).starved = none ∧
      NoPendingRecord edgeOnClaim (.line 0) ∧ (edgeOnClaim.line 0).desc.clearPolicy = .onClaim ∧
      LowestFree edgeOnClaim 1 := by decide +kernel

/-- EdgeWithoutANewRecord: starved; merged; Again; starving. -/
def edgeStarved : State :=
  let s := edge (on .rising)
  s.setLine 0 { s.line 0 with starved := some 255 }
def edgePending : State := (edge (on .rising)).withRecord 5 (.line 0) .pendingOpen .stopped
def edgeClaimed : State := (edge (on .rising)).withRecord 5 (.line 0) (.claimed 0 0 []) (.running 4)
def edgeFull : State := (edge (on .rising)).full

theorem witness_EdgeWithoutANewRecord :
    (MatchingEdge edgeStarved 0 (changing true) ∧ (edgeStarved.line 0).starved ≠ none) ∧
    (MatchingEdge edgePending 0 (changing true) ∧
      edgePending.occ 5 = some (fields (.line 0) .pendingOpen) ∧
      ∀ v, v ≠ 5 → (edgePending.occ v).all
        (fun d => decide (d.origin ≠ .line 0) || d.phase.isClaimed) = true) ∧
    (MatchingEdge edgeClaimed 0 (changing true) ∧
      edgeClaimed.occ 5 = some (fields (.line 0) (.claimed 0 0 [])) ∧
      (edgeClaimed.line 0).desc.clearPolicy = .onComplete ∧
      ∀ v, v ≠ 5 → (edgeClaimed.occ v).all (fun d => decide (d.origin ≠ .line 0)) = true) ∧
    (MatchingEdge edgeFull 0 (changing true) ∧
      edgeFull.occ 31 = some (fields (.line 40) (.claimed 0 0 [])) ∧ NoPendingRecord edgeFull (.line 0) ∧
      NoClaimedRecord edgeFull (.line 0) ∧ ∀ v, edgeFull.occ v ≠ none) := by
  refine ⟨?_, ?_, ?_, ?_⟩ <;> decide +kernel

/-- LevelSourceLineChange: away from the level; to it with a record; creating; starving. -/
def levelLow : State := edge (on .low)
def levelHeld : State := (edge (on .high)).withRecord 5 (.line 0) (.claimed 0 0 []) (.running 4)

theorem witness_LevelSourceLineChange :
    (Clocked levelLow ∧ (levelLow.line 0).filter = some (changing true) ∧
      (levelLow.line 0).desc.enabled = true ∧ (levelLow.line 0).desc.sense.isLevel = true ∧
      (levelLow.line 0).desc.group = none ∧ ¬ AtActiveLevel (levelLow.line 0).desc.sense true) ∧
    (¬ NoLiveRecord levelHeld (.line 0) ∧ AtActiveLevel (levelHeld.line 0).desc.sense true) ∧
    (Clocked (edge (on .high)) ∧ ((edge (on .high)).line 0).filter = some (changing true) ∧
      NoLiveRecord (edge (on .high)) (.line 0) ∧ LowestFree (edge (on .high)) 0) ∧
    (NoLiveRecord (edge (on .high)).full (.line 0) ∧ ((edge (on .high)).full.line 0).starved = none ∧
      ∀ v, (edge (on .high)).full.occ v ≠ none) := by decide +kernel

/-- A matching edge of a member of group 7, the group with the given runtime. -/
def member (x : Group) : State := (edge { on .rising with group := some 7 }).setGroup 7 x
def enabledGroup : Group := { Group.reset with desc := { GroupDescriptor.reset with enabled := true } }

theorem witness_MemberTriggerAtItsGroup :
    (MatchingEdge (member Group.reset) 0 (changing true) ∧
      ((member Group.reset).line 0).desc.group = some 7 ∧
      ((member Group.reset).group 7).desc.enabled = false) ∧
    (MatchingEdge (member enabledGroup) 0 (changing true) ∧
      ((member enabledGroup).group 7).desc.enabled = true ∧
      ((member enabledGroup).group 7).starved = false ∧ ((member enabledGroup).group 7).live = none ∧
      LowestFree (member enabledGroup) 0) ∧
    (MatchingEdge (member enabledGroup).full 0 (changing true) ∧
      ∀ v, (member enabledGroup).full.occ v ≠ none) ∧
    ((member { enabledGroup with starved := true }).group 7).starved = true ∧
    (MatchingEdge ((member { enabledGroup with live := some 5 }).withRecord 5 (.group 7) .pendingOpen
        .stopped) 0 (changing true) ∧
      (((member { enabledGroup with live := some 5 }).withRecord 5 (.group 7) .pendingOpen
        .stopped).group 7).live = some 5) := by
  refine ⟨?_, ?_, ?_, ?_, ?_⟩ <;> decide +kernel

/-- MemberTriggerAtItsGroup: a line change of a level-sensed member to its active level. -/
def levelMember : State := (edge { on .high with group := some 7 }).setGroup 7 enabledGroup

theorem witness_MemberTriggerAtItsGroup_level :
    Clocked levelMember ∧ (levelMember.line 0).filter = some (changing true) ∧
      (levelMember.line 0).desc.enabled = true ∧ ¬ MatchingEdge levelMember 0 (changing true) ∧
      AtActiveLevel (levelMember.line 0).desc.sense (changing true).candidate ∧
      (levelMember.line 0).desc.group = some 7 ∧ (levelMember.group 7).desc.enabled = true ∧
      (levelMember.group 7).live = none ∧ LowestFree levelMember 0 := by decide +kernel

theorem witness_WindowExpiryOpensTheRecord :
    (Clocked (crew.withRecord 6 (.line 0) .pendingExcl .due) ∧
      (crew.withRecord 6 (.line 0) .pendingExcl .due).occ 6 = some (fields (.line 0) .pendingExcl) ∧
      ((crew.withRecord 6 (.line 0) .pendingExcl .due).record 6).timer = .due) ∧
    (crew.withRecord 6 (.line 0) .pendingExcl (.running 0)).occ 6 = some (fields (.line 0) .pendingExcl) := by
  decide +kernel

/-- The fields of record 5 in `held`. -/
def claim0 : Occurrence := fields (.line 0) (.claimed 0 0 [])

/-- The states from which the record 5 of a stack of one returns by each of the four courses: its source is disabled;
the reoffer limit is passed; the record 6 of the source is PENDING; and none of these. -/
def heldDisabled : State := held.setLine 0 { held.line 0 with desc := SourceDescriptor.reset }
def heldPast : State := held.setOcc 5 { claim0 with reoffer := 3 }
def heldTwice : State :=
  (State.withLine held 0 { on .rising with clearPolicy := .onClaim } (steady false)).withRecord 6 (.line 0)
    .pendingOpen .stopped

/-- The record 5 is the one entry of the stack of host 0, with the fields `c`, and every stack is exact. -/
abbrev OneEntry (s : State) (c : Occurrence) : Prop :=
  s.occ 5 = some c ∧ heldBy 0 c = true ∧ (s.host 0).stack ≠ [] ∧ (∀ e ∈ (s.host 0).stack, e.tag = 5) ∧
    StacksExact s

/-- The hypotheses of the four courses of `ReturnCourse`, each in the state `f` makes of the four above. -/
abbrev FourCourses (f : State → State) : Prop :=
  (OneEntry (f heldDisabled) claim0 ∧ (f heldDisabled).enabledOf (.line 0) = false ∧
    NoneStarved (f heldDisabled)) ∧
  (OneEntry (f heldPast) { claim0 with reoffer := 3 } ∧ (f heldPast).enabledOf (.line 0) = true ∧
    ((f heldPast).termsOf (.line 0)).reofferLimit.val < 3 + 1 ∧ NoneStarved (f heldPast) ∧
    firesAgain (f heldPast) (.line 0) = false) ∧
  (OneEntry (f heldTwice) claim0 ∧ (f heldTwice).enabledOf (.line 0) = true ∧
    claim0.reoffer + 1 ≤ ((f heldTwice).termsOf (.line 0)).reofferLimit.val ∧ NoneStarved (f heldTwice) ∧
    (f heldTwice).occ 6 = some (fields (.line 0) .pendingOpen) ∧
    OnlyPending (f heldTwice) (.line 0) 6 (fields (.line 0) .pendingOpen)) ∧
  (OneEntry (f held) claim0 ∧ (f held).enabledOf (.line 0) = true ∧
    claim0.reoffer + 1 ≤ ((f held).termsOf (.line 0)).reofferLimit.val ∧
    NoPendingRecord (f held) (.line 0) ∧ ((f held).line 0).starved = none)

/-- LeaseExpiryReturnsTheRecord: the lease of record 5 is due below the strike limit, with an empty queue and with a
full one, and where strikes have no limit; the four courses; the record of a group; a starved source. -/
theorem witness_LeaseExpiryReturnsTheRecord :
    Clocked expired ∧ expired.occ 5 = some claim0 ∧
      claim0.phase = .claimed 0 claim0.phase.extensions claim0.phase.members ∧
      (expired.record 5).timer = .due ∧ (expired.host 0).presence = .present ∧
      min 7 ((expired.host 0).strikes + 1) < expired.policy.strikeLimit.val ∧
      { expired with policy := { Policy.reset with strikeLimit := 0 } }.policy.strikeLimit.val = 0 ∧
      (expired.host 0).queue.length < 8 ∧ 8 ≤ ((expired.withQueue 0 eight).host 0).queue.length := by decide +kernel

theorem witness_LeaseExpiryReturnsTheRecord_courses : FourCourses (fun s => s.setTimer 5 .due) := by
  refine ⟨?_, ?_, ?_, ?_⟩ <;> decide +kernel

/-- An ON_CLAIM source whose record 5 is CLAIMED, starved since with a count of 7, every tag being taken. -/
def starvedHeld : State :=
  let s := (State.withLine crew 0 { on .rising with clearPolicy := .onClaim } (steady false)).full.withRecord 5
    (.line 0) (.claimed 0 0 []) (.running 4)
  s.setLine 0 { s.line 0 with starved := some 7 }

/-- Group 7 with its record 5 CLAIMED for the member 0, which still is an enabled member. -/
def memberHeld : State :=
  ((State.withLine crew 0 { on .rising with group := some 7 } (steady false)).setGroup 7
    { enabledGroup with live := some 5 }).withRecord 5 (.group 7) (.claimed 0 0 [0]) (.running 4)

theorem witness_LeaseExpiryReturnsTheRecord_comes_back :
    (Clocked (starvedHeld.setTimer 5 .due) ∧ (starvedHeld.setTimer 5 .due).occ 5 = some claim0 ∧
      ((starvedHeld.setTimer 5 .due).line 0).starved = some 7 ∧
      NoPendingRecord (starvedHeld.setTimer 5 .due) (.line 0)) ∧
    (Clocked (memberHeld.setTimer 5 .due) ∧
      (memberHeld.setTimer 5 .due).occ 5 = some (fields (.group 7) (.claimed 0 0 [0])) ∧
      (memberHeld.setTimer 5 .due).enabledOf (.group 7) = true ∧
      NoPendingRecord (memberHeld.setTimer 5 .due) (.group 7)) := by
  refine ⟨?_, ?_⟩ <;> decide +kernel

/-- Two strikes stand, the limit is 3, and the lease of record 5 is due. -/
def struck (s : State) : State :=
  let s := s.setTimer 5 .due
  s.setHost 0 { s.host 0 with strikes := 2 }

def lastStrike : State := struck held

/-- LeaseExpiryFencesTheHolder: another host's queue with room, and full. -/
theorem witness_LeaseExpiryFencesTheHolder :
    Clocked lastStrike ∧ lastStrike.occ 5 = some claim0 ∧ (lastStrike.record 5).timer = .due ∧
      (lastStrike.host 0).presence = .present ∧ StacksExact lastStrike ∧
      0 < lastStrike.policy.strikeLimit.val ∧
      lastStrike.policy.strikeLimit.val ≤ min 7 ((lastStrike.host 0).strikes + 1) ∧
      (lastStrike.host 1).presence = .present ∧ (lastStrike.host 1).queue.length < 8 ∧
      8 ≤ ((lastStrike.withQueue 1 eight).host 1).queue.length ∧ StacksExact (lastStrike.withQueue 1 eight) := by
  decide +kernel

theorem witness_LeaseExpiryFencesTheHolder_courses : FourCourses struck := by
  refine ⟨?_, ?_, ?_, ?_⟩ <;> decide +kernel

/-- The same with the record 8 of source 1 below, on the stack as well: both come back. -/
def lastStrikeTwo : State :=
  let s := lastStrike.setLine 1 { lastStrike.line 1 with desc := on .rising }
  let c : Occurrence := { claim0 with origin := .line 1, level := 3 }
  let s := s.setRecord 8 { epoch := 3, timer := .running 4, occ := some c }
  s.setHost 0 { s.host 0 with stack := [⟨5, 2⟩, ⟨8, 3⟩] }

theorem witness_LeaseExpiryFencesTheHolder_all :
    AllComeBack lastStrike 0 ∧ StacksExact lastStrikeTwo ∧ AllComeBack lastStrikeTwo 0 ∧
      (lastStrikeTwo.host 0).stack.length = 2 := by decide +kernel

/-- The same state with host 0 DRAINING. -/
def drained (s : State) : State := s.setHost 0 { s.host 0 with presence := .draining, floor := none }

def draining : State := drained held

/-- TheLastEntryEndsADrain: the expiry, and the two requests. -/
theorem witness_TheLastEntryEndsADrain :
    Clocked (draining.setTimer 5 .due) ∧ (draining.setTimer 5 .due).occ 5 = some claim0 ∧
      ((draining.setTimer 5 .due).record 5).timer = .due ∧ (draining.host 0).presence = .draining ∧
      (draining.host 0).stack ≠ [] ∧ (∀ e ∈ (draining.host 0).stack, e.tag = 5) ∧
      Serves draining 0 1 (.complete 5 9) ∧ Serves draining 0 1 (.handback 5 9) ∧
      ValidToken draining 0 5 9 5 := by decide +kernel

theorem witness_TheLastEntryEndsADrain_courses : FourCourses drained := by
  refine ⟨?_, ?_, ?_, ?_⟩ <;> decide +kernel

/-- A COMPLETE that ends a drain and frees the record; and one that re-arms it. -/
theorem witness_TheLastEntryEndsADrain_complete :
    (¬ ReArms draining (.line 0) false ∧ NoneStarved draining) ∧
      ReArms (drained (held.setOcc 5 { claim0 with again := true })) (.line 0) true := by decide +kernel

/-- SessionsEndWithoutCommit, the expiry: with room in the queue and with none. -/
theorem witness_SessionsEndWithoutCommit_expiry :
    Clocked { crew with session := some { holder := 0, timer := .due, staging := [] } } ∧
      (crew.host 0).presence = .present ∧ (crew.host 0).queue.length < 8 ∧
      8 ≤ ((crew.withQueue 0 eight).host 0).queue.length := by decide +kernel

/-- TransactionStartSamplesThePort: pin low; not recognising; beginning. -/
theorem witness_TransactionStartSamplesThePort :
    (((crew.inTransaction 0x40).port 1).csLow = true) ∧
      ((crew.port 0).csLow = false ∧ (crew.port 0).recognising = false) ∧ crew.inReset = false := by
  decide +kernel

/-- TransactionEndTakesARequest, RefusedFramesAreAnswered: an idle port in a transaction. -/
theorem witness_TransactionEndTakesARequest :
    ((crew.inTransaction 0x42).port 1).csLow = true ∧
      ((crew.inTransaction 0x42).port 1).transaction = some { status := 0x42, reply := none, placed := false } ∧
      ((crew.inTransaction 0x42).port 1).work = .idle ∧ (crew.inTransaction 0x42).refclk = true := by
  decide +kernel

/-- TransactionEndWithoutTaking: 7 bits; 0xFF first; a busy port; a reply placed since the transaction began. -/
theorem witness_TransactionEndWithoutTaking :
    (((crew.replaced [1] [2]).port 1).transaction = some { status := 0x41, reply := some [1], placed := true } ∧
      (List.replicate 16 true).take 8 = List.replicate 8 true ∧ 16 ≤ (List.replicate 16 true).length) ∧
    (List.replicate 7 false).length < 8 ∧
      (List.replicate 9 true).take 8 = List.replicate 8 true ∧
      (((crew.inTransaction 0x40).withWork 1 (.taken 1 .peek 0)).port 1).work ≠ .idle ∧
      (((crew.inTransaction 0x40).withWork 1 (.taken 1 .peek 0)).port 1).transaction =
        some { status := 0x40, reply := none, placed := false } := by decide +kernel

/-- RefusedFramesAreAnswered: a short frame, a wrong CRC, an unknown command, a wrong count. -/
theorem witness_RefusedFramesAreAnswered :
    ([] : List Byte).length < (0x10 : Byte).toNat % 16 + 1 ∧
      ((0x10 : Byte).toNat % 16 + 1 ≤ [(0xCE : Byte)].length ∧
        [(0xCE : Byte)][(0x10 : Byte).toNat % 16]? ≠ some (crc8 [0x13, 0x10])) ∧
      ([crc8 [0x14, 0x10]][(0x10 : Byte).toNat % 16]? = some (crc8 [0x14, 0x10]) ∧
        ∀ row ∈ commandTable, row.1 ≠ 0x14) ∧
      ([0x00, crc8 [0x13, 0x11, 0x00]][(0x11 : Byte).toNat % 16]? = some (crc8 [0x13, 0x11, 0x00]) ∧
        ∃ row ∈ commandTable, row.1 = 0x13 ∧ row.2 ≠ (0x11 : Byte).toNat % 16) := by decide +kernel

/-- ReplyPlacementEndsTheCycle: an answered port, one whose request was carried out ahead of its row, an idle one, a
taken CLAIM, a LEAVE of manner 2. -/
theorem witness_ReplyPlacementEndsTheCycle :
    ((crew.withWork 1 (.answered [1])).port 1).work = .answered [1] ∧ (crew.port 1).work = .idle ∧
      ((crew.withWork 1 (.carried 3 .claim [1])).port 1).work = .carried 3 .claim [1] ∧
      InTurn (crew.withWork 1 (.taken 3 (.leave 2) 0)) 1 ∧
      ((crew.withWork 1 (.taken 3 .claim 0)).port 1).work = .taken 3 .claim 0 ∧
      ((crew.withWork 1 (.taken 3 .claim 0)).port 1).rx = [] ∧
      rowRequest (.claim 1 3) = some (1, 3, .claim) ∧
      ((crew.withWork 1 (.taken 3 (.leave 2) 0)).port 1).work = .taken 3 (.leave 2) 0 ∧
      crew.inReset = false ∧ (crew.host 1).presence = .present := by decide +kernel

theorem witness_ReplyPlacementEndsTheCycle_step :
    ∃ t, exec (.claim 1 3) (crew.withWork 1 (.taken 3 .claim 0)) = .next t := ⟨_, rfl⟩

/-- ConfigurationLayoutsReadBack: the chip reset records are within their ranges. -/
theorem witness_ConfigurationLayoutsReadBack :
    LineInRange SourceDescriptor.reset ∧ PostedInRange SourceDescriptor.reset ∧
      GroupDescriptor.reset.terms.route ≠ 0 ∧ PolicyInRange Policy.reset ∧
      (⟨#[0x03, 0xFF, 0x03, 0xF1, 0], rfl⟩ : Table Byte 5).toList = SourceDescriptor.reset.bytes ∧
      (Table.put (⟨#[0x13, 0xFF, 0x7F, 0], rfl⟩ : Table Byte 4) 2 (0x7F &&& 0x83)).toList =
        GroupDescriptor.reset.bytes ∧
      (⟨#[0, 100, 0x03, 0xE8, 0x27, 0x10, 0xFF, 0xFF, 3, 3, 0xC3, 0x50], rfl⟩ : Table Byte 12).toList =
        Policy.reset.bytes := by decide +kernel

/-- RefusalsChangeNothing, the presence check: an ABSENT, a FENCED and a DRAINING host. -/
theorem witness_RefusalsChangeNothing_presence :
    rowRequest (.claim 0 1) = some (0, 1, .claim) ∧ alwaysTaken .claim = false ∧
      Serves State.reset 0 1 .claim ∧ (State.reset.host 0).presence = .absent ∧
      Serves (crew.withHost 0 .fenced) 0 1 .claim ∧ ((crew.withHost 0 .fenced).host 0).presence = .fenced ∧
      Serves draining 0 1 .claim ∧ (draining.host 0).presence = .draining ∧
      takenWhileDraining .claim = false := by decide +kernel

/-- RequestRowsNotCarriedOut: REFCLK stopped; a port busy with another request; a request carried out ahead of the
row. -/
theorem witness_RequestRowsNotCarriedOut :
    rowRequest (.claim 0 1) = some (0, 1, .claim) ∧ crew.inReset = false ∧
      (({ crew with refclk := false }.port 0).work = .idle ∧ { crew with refclk := false }.refclk = false) ∧
      ((crew.withWork 0 (.taken 2 .claim 0)).port 0).work ≠ .idle ∧
      (∀ turn, ((crew.withWork 0 (.taken 2 .claim 0)).port 0).work ≠ .taken 1 .claim turn) ∧
      ((crew.withWork 0 (.carried 1 .claim [1])).port 0).work = .carried 1 .claim [1] ∧
      ∀ turn, ((crew.withWork 0 (.carried 1 .claim [1])).port 0).work ≠ .taken 1 .claim turn := by
  refine ⟨by decide, by decide +kernel, by decide +kernel, by decide +kernel, fun _ h => ?_, by decide +kernel,
      fun _ h => ?_⟩
  · have w : ((crew.withWork 0 (.taken 2 .claim 0)).port 0).work = .taken 2 .claim 0 := by decide +kernel
    exact absurd (w.symm.trans h) (by simp)
  · have w : ((crew.withWork 0 (.carried 1 .claim [1])).port 0).work = .carried 1 .claim [1] := by decide +kernel
    exact absurd (w.symm.trans h) (by simp)

/-- CLAIMs taken at ports 0 and then 1, with one record PENDING. -/
def twoTaken : State :=
  ((crew.withRecord 4 (.line 0) .pendingOpen .stopped).withWork 0 (.taken 1 .claim 0)).withWork 1
    (.taken 2 .claim 1)

/-- R63: the CLAIM taken first has the record, although the placement of the other comes first. -/
theorem test_the_claim_taken_first_has_the_record :
    ((after (.replyPlacement 1) twoTaken).host 0).stack = [⟨4, 2⟩] := by decide +kernel

/-- RequestsTakeEffectInOrder: before the row of port 1, before its placement, and before a row at the idle
port 2. -/
theorem witness_RequestsTakeEffectInOrder :
    twoTaken.inReset = false ∧ (twoTaken.port 0).work = .taken 1 .claim 0 ∧
      (∀ f, f ≠ 0 → takenBefore twoTaken 0 f = true) ∧ rowRequest (.claim 0 1) = some (0, 1, .claim) ∧
      ((after (.claim 0 1) twoTaken).port 0).work = .answered (reply (after (.claim 0 1) twoTaken) 0) ∧
      rowRequest (.claim 1 2) = some (1, 2, .claim) ∧ (twoTaken.port 1).work = .taken 2 .claim 1 ∧
      rowRequest (.peek 2 3) = some (2, 3, .peek) ∧ (twoTaken.port 2).work = .idle ∧ twoTaken.refclk = true := by
  refine ⟨?_, ?_, ?_, ?_, ?_, ?_, ?_, ?_, ?_, ?_⟩ <;> decide +kernel

theorem witness_RequestsTakeEffectInOrder_step : exec (.claim 0 1) twoTaken = .next (after (.claim 0 1) twoTaken) :=
  rfl

theorem witness_JoinFromAbsentOrFenced :
    (Serves State.reset 0 1 .join ∧ (State.reset.host 0).presence = .absent) ∧
      (Serves (crew.withHost 0 .fenced) 0 1 .join ∧
        ((crew.withHost 0 .fenced).host 0).presence = .fenced) := by decide +kernel

theorem witness_RejoinRevokesAndRestarts :
    (Serves held 0 1 .join ∧ (held.host 0).presence = .present ∧ StacksExact held ∧
      (held.host 0).stack ≠ []) ∧
    (Serves draining 0 1 .join ∧ (draining.host 0).presence = .draining ∧ StacksExact draining) := by
  decide +kernel

/-- RejoinRevokesAndRestarts, LeaveImmediateRevokes: the record of a stack of one, from a PRESENT host. -/
theorem witness_revoked_courses : FourCourses id := by
  refine ⟨?_, ?_, ?_, ?_⟩ <;> decide +kernel

theorem witness_LeaveGracefulDrainsOrLeaves :
    (Serves crew 0 1 (.leave 0) ∧ (crew.host 0).presence = .present ∧ (crew.host 0).stack = []) ∧
      (Serves held 0 1 (.leave 0) ∧ (held.host 0).presence = .present ∧ (held.host 0).stack ≠ []) := by
  decide +kernel

theorem witness_LeaveImmediateRevokes :
    (Serves held 0 1 (.leave 1) ∧ (held.host 0).presence = .present ∧ StacksExact held) ∧
      (Serves draining 0 1 (.leave 1) ∧ (draining.host 0).presence = .draining ∧ StacksExact draining) := by
  decide +kernel

/-- SetFloorActsOnOffersAlone: 3, CLOSED, and the coding 4. -/
theorem witness_SetFloorActsOnOffersAlone :
    Serves crew 0 1 (.setFloor 3) ∧ (crew.host 0).presence = .present ∧ (3 : Byte).toNat < 4 ∧
      Serves crew 0 1 (.setFloor 0xFF) ∧ Serves crew 0 1 (.setFloor 4) ∧
      ¬ ((4 : Byte).toNat < 4 ∨ (4 : Byte) = 0xFF) := by decide +kernel

/-- PeekReports, ReadRecordReports and ConfigurationReadsReport: in flight, and at an idle port; tags 31 and
32, sources 47, 48, 63 and 64, groups 7 and 8. -/
theorem witness_reads :
    Serves held 0 1 .peek ∧ Serves (held.withWork 0 (.taken 1 .peek 0)) 0 1 .peek ∧
      (Serves held 0 1 (.readRecord 31) ∧ Serves held 0 1 (.readRecord 32) ∧ TimersByState held) ∧
      (Serves held 0 1 (.readSource 47) ∧ (47 : Byte).toNat = (47 : LineId).val) ∧
      (Serves held 0 1 (.readSource 48) ∧ (48 : Byte).toNat = 48 + (0 : PostedId).val) ∧
      (Serves held 0 1 (.readSource 63) ∧ (63 : Byte).toNat = 48 + (15 : PostedId).val) ∧
      (Serves held 0 1 (.readSource 64) ∧ 64 ≤ (64 : Byte).toNat) ∧
      Serves held 0 1 (.readGroup 7) ∧ Serves held 0 1 (.readGroup 8) ∧ Serves held 0 1 .readPolicy := by
  refine ⟨?_, ?_, ?_, ?_, ?_, ?_, ?_, ?_⟩ <;> decide +kernel

/-- ClaimTakesTheSelectedRecord: the second record of list 2, the first being closed to the host; and a
POSTED record. -/
def twoPending : State :=
  let s := (crew.withRecord 4 (.line 0) .pendingOpen .stopped).withRecord 6 (.line 1) .pendingOpen .stopped
  s.setOcc 4 { fields (.line 0) .pendingOpen with exclusion := 2 }

theorem witness_ClaimTakesTheSelectedRecord :
    Serves twoPending 1 1 .claim ∧ twoPending.occ 6 = some (fields (.line 1) .pendingOpen) ∧
      Offerable twoPending 1 6 ∧ twoPending.list 2 = [4] ++ 6 :: [] ∧ ¬ Offerable twoPending 1 4 ∧
      (∀ l, l < 2 → twoPending.list l = []) := by decide +kernel

theorem witness_ClaimTakesTheSelectedRecord_posted :
    Serves (crew.withRecord 4 (.posted 0) .pendingOpen .stopped) 1 1 .claim ∧
      Offerable (crew.withRecord 4 (.posted 0) .pendingOpen .stopped) 1 4 ∧
      (crew.withRecord 4 (.posted 0) .pendingOpen .stopped).list 2 = [] ++ 4 :: [] ∧
      (fields (.posted 0) .pendingOpen).posted ≠ none := by decide +kernel

/-- Group 7 with its record pending and two collected members. -/
def collected : State :=
  (crew.setGroup 7 { enabledGroup with live := some 5, collect := [0, 3] }).withRecord 5 (.group 7) .pendingOpen
    .stopped

theorem witness_ClaimTakesTheGroupSnapshot :
    Serves collected 1 1 .claim ∧ collected.occ 5 = some (fields (.group 7) .pendingOpen) ∧
      Offerable collected 1 5 ∧ collected.list 2 = 5 :: [] ∧ (∀ l, l < 2 → collected.list l = []) ∧
      (collected.group 7).desc.enabled = true ∧ (collected.group 7).starved = false ∧
      (collected.group 7).live = some 5 := by decide +kernel

/-- The record of group 7 behind a record that excludes host 1. -/
def collectedBehind : State :=
  let s := (crew.withRecord 4 (.line 0) .pendingOpen .stopped).setGroup 7 { enabledGroup with live := some 5, collect := [0] }
  (s.setOcc 4 { fields (.line 0) .pendingOpen with exclusion := 2 }).withRecord 5 (.group 7) .pendingOpen .stopped

theorem witness_ClaimTakesTheGroupSnapshot_behind :
    Serves collectedBehind 1 1 .claim ∧ collectedBehind.occ 5 = some (fields (.group 7) .pendingOpen) ∧
      Offerable collectedBehind 1 5 ∧ collectedBehind.list 2 = [4] ++ 5 :: [] ∧ ¬ Offerable collectedBehind 1 4 ∧
      (∀ l, l < 2 → collectedBehind.list l = []) ∧ (collectedBehind.group 7).live = some 5 := by decide +kernel

/-- RefusalsChangeNothing, EMPTY and STALE: nothing pending; an old epoch; a tag byte of 32. -/
theorem witness_RefusalsChangeNothing_empty_stale :
    (Serves crew 0 1 .claim ∧ (crew.host 0).presence = .present ∧ ∀ l, crew.list l = []) ∧
      (rowRequest (.extend 0 1 5 8) = some (0, 1, .extend 5 8) ∧ Serves held 0 1 (.extend 5 8) ∧
        ∀ u, ¬ ValidToken held 0 5 8 u) ∧
      (rowRequest (.complete 0 1 32 9) = some (0, 1, .complete 32 9) ∧ Serves held 0 1 (.complete 32 9) ∧
        ∀ u, ¬ ValidToken held 0 32 9 u) := by decide +kernel

/-- The extension count at the limit 3. -/
def extended : State := held.setOcc 5 { claim0 with phase := .claimed 0 3 [] }

theorem witness_ExtendRestartsTheLease :
    (Serves held 0 1 (.extend 5 9) ∧ ValidToken held 0 5 9 5 ∧ held.occ 5 = some claim0 ∧
      claim0.phase.extensions < held.policy.extensionLimit.val) ∧
    (Serves extended 0 1 (.extend 5 9) ∧ ValidToken extended 0 5 9 5 ∧
      extended.occ 5 = some { claim0 with phase := .claimed 0 3 [] } ∧
      extended.policy.extensionLimit.val ≤ 3) := by decide +kernel

/-- CompleteFreesTheRecord: nothing starved; a POSTED record whose raiser 1 asked; a starved source 9. -/
def heldPosted (h : HostId) : State :=
  crew.withRecord 5 (.posted 0) (.claimed h 0 []) (.running 4)
def heldStarved : State :=
  let s := (State.withLine held 9 (on .rising) (steady false)).full.withRecord 5 (.line 0) (.claimed 0 0 [])
    (.running 4)
  s.setLine 9 { s.line 9 with starved := some 4 }

theorem witness_CompleteFreesTheRecord :
    (Serves held 0 1 (.complete 5 9) ∧ StaysJoined held 0 5 ∧ ValidToken held 0 5 9 5 ∧
      held.occ 5 = some claim0 ∧ ¬ ReArms held claim0.origin claim0.again ∧ NoneStarved held) ∧
    (Serves (heldPosted 0) 0 1 (.complete 5 9) ∧ ValidToken (heldPosted 0) 0 5 9 5 ∧
      ¬ ReArms (heldPosted 0) (.posted 0) false ∧
      ((fields (.posted 0) (.claimed 0 0 [])).posted.any (fun p => decide (p.raiser ≠ 0))) = true) ∧
    (Serves (heldPosted 1) 1 1 (.complete 5 9) ∧ ValidToken (heldPosted 1) 1 5 9 5 ∧
      ((heldPosted 1).host 1).queue.length < 8) := by
  refine ⟨?_, ?_, ?_⟩ <;> decide +kernel

theorem witness_CompleteFreesTheRecord_grant :
    Serves heldStarved 0 1 (.complete 5 9) ∧ StaysJoined heldStarved 0 5 ∧ ValidToken heldStarved 0 5 9 5 ∧
      ¬ ReArms heldStarved claim0.origin claim0.again ∧ FirstStarvedLine heldStarved 9 ∧
      (heldStarved.line 9).desc.sense.isLevel = false ∧ ∀ v, heldStarved.occ v ≠ none := by
  refine ⟨?_, ?_, ?_, ?_, ?_, ?_, ?_⟩ <;> decide +kernel

/-- The same, source 9 level-sensed; and group 3 starved in its place. -/
def heldStarvedLevel : State := heldStarved.setLine 9 { heldStarved.line 9 with desc := on .high }
def heldStarvedGroup : State :=
  let s := heldStarved.setLine 9 { heldStarved.line 9 with starved := none }
  s.setGroup 3 { Group.reset with
    desc := { GroupDescriptor.reset with enabled := true }, collect := [4], starved := true }

theorem witness_CompleteFreesTheRecord_grants :
    (Serves heldStarvedLevel 0 1 (.complete 5 9) ∧ StaysJoined heldStarvedLevel 0 5 ∧
      ValidToken heldStarvedLevel 0 5 9 5 ∧ ¬ ReArms heldStarvedLevel claim0.origin claim0.again ∧
      FirstStarvedLine heldStarvedLevel 9 ∧ (heldStarvedLevel.line 9).desc.sense.isLevel = true) ∧
    (Serves heldStarvedGroup 0 1 (.complete 5 9) ∧ StaysJoined heldStarvedGroup 0 5 ∧
      ValidToken heldStarvedGroup 0 5 9 5 ∧ ¬ ReArms heldStarvedGroup claim0.origin claim0.again ∧
      FirstStarvedGroup heldStarvedGroup 3) := by
  refine ⟨⟨?_, ?_, ?_, ?_, ?_, ?_⟩, ?_, ?_, ?_, ?_, ?_⟩ <;> decide +kernel

/-- The returns that free the tag of record 5 while source 9 is starved and no tag is FREE: its source disabled; past
the limit, edge-sensed; past it, level-sensed and standing; and a second record of its source PENDING, with Again set
on the returning one. -/
def starvedDisabled : State := heldStarved.setLine 0 { heldStarved.line 0 with desc := SourceDescriptor.reset }
def starvedPast : State :=
  (State.withLine heldStarved 0 (on .rising) (steady false)).setOcc 5 { claim0 with reoffer := 3 }
def starvedStanding : State :=
  (State.withLine heldStarved 0 (on .high) (steady true)).setOcc 5 { claim0 with reoffer := 3 }
def starvedTwice : State :=
  ((State.withLine heldStarved 0 { on .rising with clearPolicy := .onClaim } (steady false)).setOcc 5
    { claim0 with again := true }).withRecord 6 (.line 0) .pendingOpen .stopped

theorem witness_HandbackWithdrawsOrAbandons_grant :
    (Serves starvedDisabled 0 1 (.handback 5 9) ∧ StaysJoined starvedDisabled 0 5 ∧
      ValidToken starvedDisabled 0 5 9 5 ∧ starvedDisabled.enabledOf (.line 0) = false ∧
      FirstStarvedLine starvedDisabled 9) ∧
    (Serves starvedPast 0 1 (.handback 5 9) ∧ ValidToken starvedPast 0 5 9 5 ∧
      starvedPast.enabledOf (.line 0) = true ∧ (starvedPast.termsOf (.line 0)).reofferLimit.val < 3 + 1 ∧
      firesAgain starvedPast (.line 0) = false ∧ FirstStarvedLine starvedPast 9) ∧
    (Serves starvedStanding 0 1 (.handback 5 9) ∧ ValidToken starvedStanding 0 5 9 5 ∧
      firesAgain starvedStanding (.line 0) = true ∧ FirstStarvedLine starvedStanding 9 ∧
      ∀ v, starvedStanding.occ v ≠ none) := by
  refine ⟨⟨?_, ?_, ?_, ?_, ?_⟩, ⟨?_, ?_, ?_, ?_, ?_, ?_⟩, ?_, ?_, ?_, ?_, ?_⟩ <;> decide +kernel

theorem witness_HandbackMergesIntoThePendingRecord_grant :
    Serves starvedTwice 0 1 (.handback 5 9) ∧ StaysJoined starvedTwice 0 5 ∧ ValidToken starvedTwice 0 5 9 5 ∧
      starvedTwice.occ 5 = some { claim0 with again := true } ∧ (starvedTwice.line 0).desc.enabled = true ∧
      claim0.reoffer + 1 ≤ (starvedTwice.line 0).desc.terms.reofferLimit.val ∧
      starvedTwice.occ 6 = some (fields (.line 0) .pendingOpen) ∧
      OnlyPending starvedTwice (.line 0) 6 (fields (.line 0) .pendingOpen) ∧ FirstStarvedLine starvedTwice 9 := by
  refine ⟨?_, ?_, ?_, ?_, ?_, ?_, ?_, ?_, ?_⟩ <;> decide +kernel

/-- `ReturnCourse` with a starved origin: the same at a lease that is due, and at one that fences. -/
theorem witness_ReturnCourse_grant :
    ((starvedDisabled.setTimer 5 .due).occ 5 = some claim0 ∧
      ((starvedDisabled.setTimer 5 .due).record 5).timer = .due ∧
      FirstStarvedLine (starvedDisabled.setTimer 5 .due) 9) ∧
    FirstStarvedLine (struck starvedDisabled) 9 ∧ FirstStarvedLine (drained starvedDisabled) 9 := by
  refine ⟨⟨?_, ?_, ?_⟩, ?_, ?_⟩ <;> decide +kernel

/-- The record of a group whose collect set is empty. -/
def heldGroup : State :=
  (crew.setGroup 7 { enabledGroup with live := some 5 }).withRecord 5 (.group 7) (.claimed 0 0 [0]) (.running 4)

theorem witness_CompleteFreesTheRecord_group :
    Serves heldGroup 0 1 (.complete 5 9) ∧ ValidToken heldGroup 0 5 9 5 ∧
      heldGroup.occ 5 = some (fields (.group 7) (.claimed 0 0 [0])) ∧
      ¬ ReArms heldGroup (.group 7) false ∧ NoneStarved heldGroup := by decide +kernel

/-- CompleteRearmsTheRecord: Again set; the line still standing; a non-empty collect set. -/
def heldAgain : State := held.setOcc 5 { claim0 with again := true }
def heldStanding : State :=
  (State.withLine crew 0 (on .high) (steady true)).withRecord 5 (.line 0) (.claimed 0 0 []) (.running 4)
def heldCollecting : State := heldGroup.setGroup 7 { heldGroup.group 7 with collect := [0] }

theorem witness_CompleteRearmsTheRecord :
    (Serves heldAgain 0 1 (.complete 5 9) ∧ StaysJoined heldAgain 0 5 ∧ ValidToken heldAgain 0 5 9 5 ∧
      ReArms heldAgain (.line 0) true) ∧
    (ValidToken heldStanding 0 5 9 5 ∧ ReArms heldStanding (.line 0) false) ∧
    (Serves heldCollecting 0 1 (.complete 5 9) ∧ ValidToken heldCollecting 0 5 9 5 ∧
      ReArms heldCollecting (.group 7) false) := by decide +kernel

/-- HandbackReturnsToPending: a LINE record at the reoffer limit, one of a starved ON_CLAIM source and a GROUP
record. -/
def heldOften : State := held.setOcc 5 { claim0 with reoffer := 2 }

theorem witness_HandbackReturnsToPending :
    (Serves heldOften 0 1 (.handback 5 9) ∧ StaysJoined heldOften 0 5 ∧ ValidToken heldOften 0 5 9 5 ∧
      heldOften.enabledOf (.line 0) = true ∧
      2 + 1 ≤ (heldOften.termsOf (.line 0)).reofferLimit.val ∧ NoPendingRecord heldOften (.line 0) ∧
      (heldOften.line 0).starved = none) ∧
    (Serves starvedHeld 0 1 (.handback 5 9) ∧ StaysJoined starvedHeld 0 5 ∧ ValidToken starvedHeld 0 5 9 5 ∧
      starvedHeld.enabledOf (.line 0) = true ∧ NoPendingRecord starvedHeld (.line 0) ∧
      (starvedHeld.line 0).starved = some 7) ∧
    (Serves heldGroup 0 1 (.handback 5 9) ∧ ValidToken heldGroup 0 5 9 5 ∧
      heldGroup.enabledOf (.group 7) = true ∧ NoPendingRecord heldGroup (.group 7)) ∧
    (Serves memberHeld 0 1 (.handback 5 9) ∧ ValidToken memberHeld 0 5 9 5 ∧ (memberHeld.line 0).desc.enabled = true ∧
      (memberHeld.line 0).desc.group = some 7) := by
  refine ⟨?_, ?_, ?_, ?_⟩ <;> decide +kernel

/-- A disabled source made level-sensed, its line standing. -/
def heldDisabledLevel : State :=
  State.withLine held 0 { SourceDescriptor.reset with sense := .high } (steady true)

/-- HandbackWithdrawsOrAbandons, no origin starved: the source disabled, edge-sensed and level-sensed; the reoffer limit passed, with
room for the notice and with none. -/
theorem witness_HandbackWithdrawsOrAbandons :
    (Serves heldDisabled 0 1 (.handback 5 9) ∧ ValidToken heldDisabled 0 5 9 5 ∧
      heldDisabled.occ 5 = some claim0 ∧ (heldDisabled.line 0).desc.sense.isLevel = false ∧
      NoneStarved heldDisabled ∧ (heldDisabled.line 0).desc.enabled = false) ∧
    (Serves heldDisabledLevel 0 1 (.handback 5 9) ∧ StaysJoined heldDisabledLevel 0 5 ∧
      ValidToken heldDisabledLevel 0 5 9 5 ∧ NoneStarved heldDisabledLevel ∧
      (heldDisabledLevel.line 0).desc.enabled = false ∧ (heldDisabledLevel.line 0).desc.sense.isLevel = true) ∧
    (Serves heldPast 0 1 (.handback 5 9) ∧ ValidToken heldPast 0 5 9 5 ∧ NoneStarved heldPast ∧
      (heldPast.line 0).desc.terms.reofferLimit.val < 3 + 1 ∧ (heldPast.line 0).desc.enabled = true ∧
      (heldPast.host 1).queue.length < 8 ∧ 8 ≤ ((heldPast.withQueue 1 eight).host 1).queue.length) := by
  refine ⟨?_, ?_, ?_⟩ <;> decide +kernel

/-- Past the limit: a posted record; a level-sensed one whose line does not stand, or stands, outside groups or in
group 7; and one of group 7 with its collect set empty or not. -/
def postedPast (d : SourceDescriptor) : State :=
  let s := heldPosted 0
  let s := s.setPosted 0 { s.posted 0 with desc := d }
  s.setOcc 5 { fields (.posted 0) (.claimed 0 0 []) with reoffer := 3 }
def levelPast (level : Bool) (g : Option GroupId) : State :=
  let s := (State.withLine crew 0 { on .high with group := g } (steady level)).withRecord 5 (.line 0)
    (.claimed 0 0 []) (.running 4)
  s.setOcc 5 { claim0 with reoffer := 3 }
def memberPast : State :=
  ((levelPast true (some 7)).setGroup 7 { enabledGroup with live := some 9 }).setRecord 9
    { epoch := 0, timer := .running 3, occ := some (fields (.group 7) (.claimed 1 0 [])) }
def groupPast (collect : List LineId) (d : GroupDescriptor) : State :=
  let s := (crew.setGroup 7 { Group.reset with desc := d, live := some 5, collect := collect }).withRecord 5
    (.group 7) (.claimed 0 0 [0]) (.running 4)
  s.setOcc 5 { fields (.group 7) (.claimed 0 0 [0]) with reoffer := 3 }

theorem witness_HandbackWithdrawsOrAbandons_posted :
    (Serves (postedPast (on .rising)) 0 1 (.handback 5 9) ∧ StaysJoined (postedPast (on .rising)) 0 5 ∧
      ValidToken (postedPast (on .rising)) 0 5 9 5 ∧ NoneStarved (postedPast (on .rising)) ∧
      (postedPast (on .rising)).occ 5 = some { fields (.posted 0) (.claimed 0 0 []) with reoffer := 3 } ∧
      (on .rising).terms.reofferLimit.val < 3 + 1 ∧ (on .rising).enabled = true ∧
      (fields (.posted 0) .pendingOpen).posted.any (fun p => p.notify) = true) ∧
    (Serves (postedPast SourceDescriptor.reset) 0 1 (.handback 5 9) ∧
      ValidToken (postedPast SourceDescriptor.reset) 0 5 9 5 ∧
      ((postedPast SourceDescriptor.reset).posted 0).desc.enabled = false) := by decide +kernel

theorem witness_HandbackWithdrawsOrAbandons_level :
    (Serves (levelPast false none) 0 1 (.handback 5 9) ∧ StaysJoined (levelPast false none) 0 5 ∧
      ValidToken (levelPast false none) 0 5 9 5 ∧
      (levelPast false none).occ 5 = some { claim0 with reoffer := 3 } ∧
      ((levelPast false none).line 0).desc.sense.isLevel = true ∧ NoneStarved (levelPast false none) ∧
      ((levelPast false none).line 0).desc.terms.reofferLimit.val < 3 + 1 ∧
      firesAgain (levelPast false none) (.line 0) = false) ∧
    (ValidToken (levelPast true none) 0 5 9 5 ∧ firesAgain (levelPast true none) (.line 0) = true ∧
      ∀ v, v ≠ 5 → ((levelPast true none).occ v).all (fun d => decide (d.origin ≠ .line 0)) = true) ∧
    (Serves memberPast 0 1 (.handback 5 9) ∧ ValidToken memberPast 0 5 9 5 ∧
      firesAgain memberPast (.line 0) = true ∧ (memberPast.line 0).desc.group = some 7 ∧
      (memberPast.group 7).desc.enabled = true ∧ (memberPast.group 7).live = some 9 ∧
      (memberPast.occ 9).any (fun d => d.phase.isClaimed) = true ∧ NoneStarved memberPast) := by
  refine ⟨?_, ?_, ?_⟩ <;> decide +kernel

theorem witness_HandbackWithdrawsOrAbandons_group :
    (Serves (groupPast [] GroupDescriptor.reset) 0 1 (.handback 5 9) ∧
      StaysJoined (groupPast [] GroupDescriptor.reset) 0 5 ∧
      ValidToken (groupPast [] GroupDescriptor.reset) 0 5 9 5 ∧
      NoneStarved (groupPast [] GroupDescriptor.reset) ∧ GroupDescriptor.reset.enabled = false) ∧
    (ValidToken (groupPast [] enabledGroup.desc) 0 5 9 5 ∧ enabledGroup.desc.enabled = true ∧
      enabledGroup.desc.terms.reofferLimit.val < 3 + 1 ∧
      ((groupPast [] enabledGroup.desc).group 7).collect = []) ∧
    (Serves (groupPast [4] enabledGroup.desc) 0 1 (.handback 5 9) ∧
      ValidToken (groupPast [4] enabledGroup.desc) 0 5 9 5 ∧
      ((groupPast [4] enabledGroup.desc).group 7).collect ≠ []) := by
  refine ⟨?_, ?_, ?_⟩ <;> decide +kernel

/-- HandbackMergesIntoThePendingRecord: an ON_CLAIM source with a second record pending. -/
theorem witness_HandbackMergesIntoThePendingRecord :
    Serves heldTwice 0 1 (.handback 5 9) ∧ StaysJoined heldTwice 0 5 ∧ ValidToken heldTwice 0 5 9 5 ∧
      heldTwice.occ 5 = some claim0 ∧ (heldTwice.line 0).desc.enabled = true ∧ NoneStarved heldTwice ∧
      claim0.reoffer + 1 ≤ (heldTwice.line 0).desc.terms.reofferLimit.val ∧
      heldTwice.occ 6 = some (fields (.line 0) .pendingOpen) ∧
      OnlyPending heldTwice (.line 0) 6 (fields (.line 0) .pendingOpen) := by decide +kernel

/-- RaiseIsJudgedInOrder: source 47 and notify 2; S48 disabled; S63 occupied; no FREE tag; created. -/
def posting : State :=
  crew.setPosted 15 { crew.posted 15 with desc := { SourceDescriptor.reset with enabled := true } }
def occupied : State := posting.withRecord 5 (.posted 15) .pendingOpen .stopped

theorem witness_RaiseIsJudgedInOrder :
    (Serves posting 0 1 (.raise 47 0 0) ∧ ¬ (48 ≤ (47 : Byte).toNat ∧ (47 : Byte).toNat < 64)) ∧
    (Serves posting 0 1 (.raise 48 0 2) ∧ ¬ ((2 : Byte) = 0 ∨ (2 : Byte) = 1)) ∧
    (Serves posting 0 1 (.raise 48 0 0) ∧ (48 : Byte).toNat = 48 + (0 : PostedId).val ∧
      (posting.posted 0).desc.enabled = false) ∧
    (Serves occupied 0 1 (.raise 63 0 1) ∧ (63 : Byte).toNat = 48 + (15 : PostedId).val ∧
      occupied.occ 5 = some (fields (.posted 15) .pendingOpen) ∧
      ∀ v, v < 5 → (occupied.occ v).all (fun d => decide (d.origin ≠ .posted 15)) = true) ∧
    (Serves posting.full 0 1 (.raise 63 0 1) ∧ NoLiveRecord posting.full (.posted 15) ∧
      ∀ v, posting.full.occ v ≠ none) ∧
    ((posting.host 0).presence = .present ∧ (posting.posted 15).desc.enabled = true ∧
      NoLiveRecord posting (.posted 15) ∧ LowestFree posting 0) := by decide +kernel

theorem witness_TakeNoticeReturnsTheOldest :
    (Serves crew 0 1 .takeNotice ∧ (crew.host 0).queue = []) ∧
      (Serves (crew.withQueue 0 eight) 0 1 .takeNotice ∧ ((crew.withQueue 0 eight).host 0).queue ≠ []) := by
  decide +kernel

/-- OpenSessionByItsState: IDLE, its own, another's. -/
theorem witness_OpenSessionByItsState :
    (Serves crew 0 1 .openSession ∧ (crew.host 0).presence = .present ∧ crew.session = none) ∧
      (Serves (crew.withSession []) 0 1 .openSession ∧
        (crew.withSession []).session = some (sessionOf []) ∧ (sessionOf []).holder = 0) ∧
      (Serves (crew.withSession []) 1 1 .openSession ∧ (sessionOf []).holder ≠ 1) := by decide +kernel

/-- RefusedSessionRequests: no session; source 64, group 8 and a lease of 0 from the holder. -/
theorem witness_RefusedSessionRequests :
    (rowRequest (.commit 1 1) = some (1, 1, .commit) ∧ Serves (crew.withSession []) 1 1 .commit ∧
      (crew.withSession []).session.any (fun x => decide (x.holder = 1)) = false) ∧
    (rowRequest (.stageSource 0 1 64 (Table.const 5 0)) = some (0, 1, .stageSource 64 (Table.const 5 0)) ∧
      Serves (crew.withSession []) 0 1 (.stageSource 64 (Table.const 5 0)) ∧ 64 ≤ (64 : Byte).toNat) ∧
    (Serves (crew.withSession []) 0 1 (.stageGroup 8 (Table.const 4 0)) ∧ 8 ≤ (8 : Byte).toNat) ∧
    (Serves (crew.withSession []) 0 1 (.stagePolicy (Table.const 12 0)) ∧
      (Table.const 12 (0 : Byte)).look 0 = 0 ∧ (Table.const 12 (0 : Byte)).look 1 = 0) := by decide +kernel

/-- StagingPlacesAnEntry: the layout of the entry is that of ConfigurationLayoutsReadBack; the target staged
before, the list with room, and the list of 8. -/
def eightStaged : List StagedEntry :=
  [.line 1 (on .rising), .line 2 (on .rising), .line 3 (on .rising), .line 4 (on .rising),
    .line 5 (on .rising), .line 6 (on .rising), .line 7 (on .rising), .line 8 (on .rising)]

theorem witness_StagingPlacesAnEntry :
    Serves (crew.withSession eightStaged) 0 1 (.stageSource 0 ⟨#[0x03, 0xFF, 0x03, 0xF1, 0], rfl⟩) ∧
      (crew.host 0).presence = .present ∧
      (crew.withSession eightStaged).session = some (sessionOf eightStaged) ∧
      byte (0 : LineId).val = 0 ∧ LineInRange SourceDescriptor.reset ∧
      (StagedEntry.line 1 (on .rising)).sameTarget (.line 1 SourceDescriptor.reset) = true ∧
      (∀ f ∈ eightStaged, f.sameTarget (.line 0 SourceDescriptor.reset) = false) ∧
      8 ≤ eightStaged.length ∧ ([] : List StagedEntry).length < 8 := by decide +kernel

/-- CommitIsCheckedThenApplied: an entry that fails (a posted source in a group), and one that passes. -/
def posted0 : StagedEntry := .posted 0 { SourceDescriptor.reset with group := some 1 }

theorem witness_CommitIsCheckedThenApplied :
    (Serves (crew.withSession [posted0]) 0 1 .commit ∧ (crew.host 0).presence = .present ∧
      (crew.withSession [posted0]).session = some (sessionOf [posted0]) ∧
      (sessionOf [posted0]).holder = 0 ∧ failsCheck (crew.withSession [posted0]) [posted0] posted0 = some 1) ∧
    (Serves (crew.withSession eightStaged) 0 1 .commit ∧
      eightStaged.Pairwise (fun a b => a.sameTarget b = false) ∧
      ∀ e ∈ eightStaged, failsCheck (crew.withSession eightStaged) eightStaged e = none) := by decide +kernel

/-- An entry `d` for line source 0, committed as `old`, whose line stands high and whose record 5 is PENDING_EXCL. -/
def committing (old d : SourceDescriptor) : State :=
  State.withSession ((State.withLine crew 0 old (steady true)).withRecord 5 (.line 0) .pendingExcl (.running 4))
    [.line 0 d]
def moved : SourceDescriptor :=
  { on .rising with terms := { Terms.reset with level := 0, preferred := some 1 } }
def inGroup7 (d : SourceDescriptor) : SourceDescriptor := { d with group := some 7 }

/-- The hypotheses that the first clause of CommitActsOnThePendingRecord has. -/
abbrev ActsOnPending (s : State) (d : SourceDescriptor) : Prop :=
  Serves s 0 1 .commit ∧ (s.host 0).presence = .present ∧ s.session = some (sessionOf [.line 0 d]) ∧
    failsCheck s [.line 0 d] (.line 0 d) = none ∧ (s.line 0).starved = none ∧
    (s.line 0).desc.enabled = true ∧ s.occ 5 = some (fields (.line 0) .pendingExcl) ∧ OnlyPending s (.line 0) 5 (fields (.line 0) .pendingExcl)

/-- CommitActsOnThePendingRecord: the entry disables the source, outside groups and in group 7; it moves the level
and prefers a host. -/
theorem witness_CommitActsOnThePendingRecord :
    (ActsOnPending (committing (on .rising) SourceDescriptor.reset) SourceDescriptor.reset ∧
      SourceDescriptor.reset.enabled = false) ∧
    ActsOnPending (committing (inGroup7 (on .rising)) SourceDescriptor.reset) SourceDescriptor.reset ∧
    (ActsOnPending ((committing (on .rising) SourceDescriptor.reset).starve 9) SourceDescriptor.reset ∧
      FirstStarvedLine ((committing (on .rising) SourceDescriptor.reset).starve 9) 9) ∧
    (ActsOnPending (committing (on .rising) moved) moved ∧ moved.enabled = true ∧
      moved.terms.level ≠ (on .rising).terms.level ∧ moved.terms.preferred ≠ (on .rising).terms.preferred) := by
  refine ⟨?_, ?_, ?_, ?_⟩ <;> decide +kernel

/-- The same: a level-sensed source that stands; one that leaves group 7; one that enters the enabled group 7, and
one that only changes its sense there. -/
theorem witness_CommitActsOnThePendingRecord_fires :
    (ActsOnPending (committing (on .low) (on .high)) (on .high) ∧
      AtActiveLevel (on .high).sense (steady true).filtered) ∧
    ActsOnPending (committing (inGroup7 (on .high)) (on .high)) (on .high) ∧
    ActsOnPending ((committing (on .high) (inGroup7 (on .high))).setGroup 7 enabledGroup) (inGroup7 (on .high)) ∧
    (ActsOnPending ((committing (inGroup7 (on .low)) (inGroup7 (on .high))).setGroup 7 enabledGroup)
        (inGroup7 (on .high)) ∧
      LowestFree ((committing (inGroup7 (on .low)) (inGroup7 (on .high))).setGroup 7 enabledGroup) 0) := by
  refine ⟨?_, ?_, ?_, ?_⟩ <;> decide +kernel

/-- An entry for the posted source 0, whose record 5 is PENDING: disabling it, and moving it. -/
def committingPosted (d : SourceDescriptor) : State :=
  ((crew.setPosted 0 { crew.posted 0 with desc := on .rising }).withRecord 5 (.posted 0) .pendingExcl
    (.running 4)).withSession [.posted 0 d]

theorem witness_CommitActsOnThePendingRecord_posted :
    (Serves (committingPosted SourceDescriptor.reset) 0 1 .commit ∧
      ((committingPosted SourceDescriptor.reset).host 0).presence = .present ∧
      (committingPosted SourceDescriptor.reset).session = some (sessionOf [.posted 0 SourceDescriptor.reset]) ∧
      failsCheck (committingPosted SourceDescriptor.reset) [.posted 0 SourceDescriptor.reset]
        (.posted 0 SourceDescriptor.reset) = none ∧
      NoneStarved (committingPosted SourceDescriptor.reset) ∧
      FirstStarvedLine ((committingPosted SourceDescriptor.reset).starve 9) 9 ∧
      ((committingPosted SourceDescriptor.reset).posted 0).desc.enabled = true ∧
      OnlyPending (committingPosted SourceDescriptor.reset) (.posted 0) 5 (fields (.posted 0) .pendingExcl)) ∧
    (Serves (committingPosted moved) 0 1 .commit ∧
      failsCheck (committingPosted moved) [.posted 0 moved] (.posted 0 moved) = none ∧ moved.enabled = true ∧
      moved.terms.level ≠ ((committingPosted moved).posted 0).desc.terms.level) := by decide +kernel

/-- An entry for line source 0, whose line stands high, with no PENDING record. -/
def committed (old d : SourceDescriptor) (mark : Option Nat) : State :=
  let s := State.withLine crew 0 old (steady true)
  (s.setLine 0 { s.line 0 with starved := mark }).withSession [.line 0 d]

/-- The hypotheses that every clause of CommitMarksAndFires has. -/
abbrev Commits (s : State) (d : SourceDescriptor) : Prop :=
  Serves s 0 1 .commit ∧ (s.host 0).presence = .present ∧ s.session = some (sessionOf [.line 0 d]) ∧
    failsCheck s [.line 0 d] (.line 0 d) = none ∧ NoPendingRecord s (.line 0)

/-- A starved ON_CLAIM source with a CLAIMED record. -/
def starvedOnClaim (d : SourceDescriptor) : State :=
  (committed { on .rising with clearPolicy := .onClaim } d (some 4)).withRecord 5 (.line 0) (.claimed 1 0 [])
    (.running 4)

/-- CommitMarksAndFires: disabled while starved; an edge source made ON_COMPLETE over its CLAIMED record; a starved
source made level-sensed; the same where it has that record (the two rows of R25 of log entry 26); a source enabled
with its line standing, with a FREE tag and with none, and into a group. -/
theorem witness_CommitMarksAndFires_marks :
    (Commits (committed (on .rising) SourceDescriptor.reset (some 4)) SourceDescriptor.reset ∧
      SourceDescriptor.reset.enabled = false) ∧
    (Commits (starvedOnClaim (on .rising)) (on .rising) ∧ ¬ NoClaimedRecord (starvedOnClaim (on .rising)) (.line 0) ∧
      (on .rising).clearPolicy = .onComplete) ∧
    (Commits (committed (on .rising) (on .high) (some 4)) (on .high) ∧
      NoLiveRecord (committed (on .rising) (on .high) (some 4)) (.line 0)) ∧
    (Commits (starvedOnClaim (on .high)) (on .high) ∧ (on .high).sense.isLevel = true ∧
      ¬ NoLiveRecord (starvedOnClaim (on .high)) (.line 0)) := by
  refine ⟨?_, ?_, ?_, ?_⟩ <;> decide +kernel

/-- CommitMarksAndFires: group 7 is kept where its level-sensed member changes nothing but its terms, or is enabled
while it does not stand. -/
theorem witness_CommitMarksAndFires_group_kept :
    Commits (committed (inGroup7 (on .high)) { inGroup7 (on .high) with terms := moved.terms } none)
        { inGroup7 (on .high) with terms := moved.terms } ∧
      (Commits (committed (inGroup7 SourceDescriptor.reset) (inGroup7 (on .low)) none) (inGroup7 (on .low)) ∧
        ¬ AtActiveLevel (on .low).sense (steady true).filtered) := by
  refine ⟨?_, ?_⟩ <;> decide +kernel

theorem witness_CommitMarksAndFires_fires :
    (Commits (committed SourceDescriptor.reset (on .high) none) (on .high) ∧
      AtActiveLevel (on .high).sense (steady true).filtered ∧
      NoLiveRecord (committed SourceDescriptor.reset (on .high) none) (.line 0) ∧
      LowestFree (committed SourceDescriptor.reset (on .high) none) 0) ∧
    (Commits (committed SourceDescriptor.reset (on .high) none).full (on .high) ∧
      ∀ v, (committed SourceDescriptor.reset (on .high) none).full.occ v ≠ none) ∧
    (Commits ((committed SourceDescriptor.reset { on .high with group := some 7 } none).setGroup 7 enabledGroup)
        { on .high with group := some 7 } ∧
      LowestFree ((committed SourceDescriptor.reset { on .high with group := some 7 } none).setGroup 7
        enabledGroup) 0) := by
  refine ⟨?_, ?_, ?_⟩ <;> decide +kernel

/-- An entry for group 7, with member 0 standing. -/
def committingGroup (x : Group) (d : GroupDescriptor) : State :=
  ((State.withLine crew 0 { on .high with group := some 7 } (steady true)).setGroup 7 x).withSession [.group 7 d]
def groupPending (d : GroupDescriptor) : State :=
  (committingGroup { enabledGroup with live := some 5, collect := [0] } d).withRecord 5 (.group 7) .pendingOpen .stopped
def movedGroup : GroupDescriptor := { enabledGroup.desc with terms := { Terms.reset with level := 0 } }

def groupClaimed : State :=
  (committingGroup { Group.reset with live := some 5 } enabledGroup.desc).withRecord 5 (.group 7) (.claimed 1 0 [])
    (.running 4)

/-- CommitOfAGroupEntry: disabled with no record, and with a PENDING one; its level moved. -/
theorem witness_CommitOfAGroupEntry_record :
    (Serves (committingGroup enabledGroup GroupDescriptor.reset) 0 1 .commit ∧
      ((committingGroup enabledGroup GroupDescriptor.reset).host 0).presence = .present ∧
      (committingGroup enabledGroup GroupDescriptor.reset).session =
        some (sessionOf [.group 7 GroupDescriptor.reset]) ∧
      enabledGroup.desc.enabled = true ∧ GroupDescriptor.reset.enabled = false ∧
      NoPendingRecord (committingGroup enabledGroup GroupDescriptor.reset) (.group 7)) ∧
    (Serves (groupPending GroupDescriptor.reset) 0 1 .commit ∧ NoneStarved (groupPending GroupDescriptor.reset) ∧
      FirstStarvedLine ((groupPending GroupDescriptor.reset).starve 9) 9 ∧
      OnlyPending (groupPending GroupDescriptor.reset) (.group 7) 5 (fields (.group 7) .pendingOpen)) ∧
    (Serves (groupPending movedGroup) 0 1 .commit ∧ movedGroup.enabled = true ∧
      OnlyPending (groupPending movedGroup) (.group 7) 5 (fields (.group 7) .pendingOpen) ∧
      movedGroup.terms.level ≠ ((groupPending movedGroup).group 7).desc.terms.level) := by
  refine ⟨?_, ?_, ?_⟩ <;> decide +kernel

/-- Enabled: with no standing member; with one and a FREE tag, no FREE tag, or a CLAIMED record. -/
theorem witness_CommitOfAGroupEntry_enabled :
    (Serves (crew.withSession [.group 7 enabledGroup.desc]) 0 1 .commit ∧
      standingMembers (crew.withSession [.group 7 enabledGroup.desc]) 7 = [] ∧
      NoPendingRecord (crew.withSession [.group 7 enabledGroup.desc]) (.group 7)) ∧
    (Serves (committingGroup Group.reset enabledGroup.desc) 0 1 .commit ∧
      standingMembers (committingGroup Group.reset enabledGroup.desc) 7 = [0] ∧
      ((committingGroup Group.reset enabledGroup.desc).group 7).starved = false ∧
      ((committingGroup Group.reset enabledGroup.desc).group 7).live = none ∧
      LowestFree (committingGroup Group.reset enabledGroup.desc) 0) ∧
    (standingMembers (committingGroup Group.reset enabledGroup.desc).full 7 = [0] ∧
      ∀ v, (committingGroup Group.reset enabledGroup.desc).full.occ v ≠ none) ∧
    (NoPendingRecord groupClaimed (.group 7) ∧ standingMembers groupClaimed 7 = [0] ∧
      (groupClaimed.group 7).live = some 5 ∧
      (groupClaimed.occ 5).any (fun c => c.phase.isClaimed) = true) := by
  refine ⟨?_, ?_, ?_, ?_⟩ <;> decide +kernel

/-- Group 7 is enabled, and its standing member 0 is disabled, by one list of these entries. -/
def enablingAround (entries : List StagedEntry) : State :=
  ((State.withLine crew 0 (inGroup7 (on .high)) (steady true)).setGroup 7
    { enabledGroup with desc := { enabledGroup.desc with enabled := false } }).withSession entries

/-- CommitOfAGroupEntry, the last row of R167: the two orders of the entries. -/
theorem witness_CommitOfAGroupEntry_member_disabled :
    ∀ entries, entries = [.group 7 enabledGroup.desc, .line 0 SourceDescriptor.reset] ∨
        entries = [.line 0 SourceDescriptor.reset, .group 7 enabledGroup.desc] →
      Serves (enablingAround entries) 0 1 .commit ∧
      (enablingAround entries).session = some (sessionOf entries) ∧
      failsCheck (enablingAround entries) entries (.line 0 SourceDescriptor.reset) = none ∧
      ((enablingAround entries).group 7).desc.enabled = false ∧
      ((enablingAround entries).line 0).desc.group = some 7 ∧
      standingMembers (enablingAround entries) 7 = [0] ∧ NoPendingRecord (enablingAround entries) (.line 0) ∧
      ((enablingAround entries).group 7).desc.terms = enabledGroup.desc.terms := by
  rintro entries (rfl | rfl) <;> refine ⟨?_, ?_, ?_, ?_, ?_, ?_, ?_, ?_⟩ <;> decide +kernel

/-- R167: it does not fire at the enabling, in either order. -/
theorem test_a_member_that_the_list_disables_does_not_fire :
    (after (.commit 0 0) (enablingAround [.group 7 enabledGroup.desc, .line 0 SourceDescriptor.reset])).occ 0 = none ∧
      (after (.commit 0 0) (enablingAround [.line 0 SourceDescriptor.reset, .group 7 enabledGroup.desc])).occ 0 =
        none := by decide +kernel

/-- StaysJoined: a DRAINING host with another entry below. -/
def drainingTwo : State :=
  let s := draining.withRecord 8 (.line 1) .pendingOpen .stopped
  s.setHost 0 { s.host 0 with stack := [⟨5, 1⟩, ⟨8, 2⟩] }

theorem witness_StaysJoined_draining :
    StaysJoined drainingTwo 0 5 ∧ Serves drainingTwo 0 1 (.complete 5 9) ∧
      ValidToken drainingTwo 0 5 9 5 ∧ (drainingTwo.host 0).presence = .draining := by decide +kernel

theorem witness_SessionsEndWithoutCommit_discard :
    Serves (crew.withSession [posted0]) 0 1 .discard ∧ (crew.host 0).presence = .present ∧
      (crew.withSession [posted0]).session = some (sessionOf [posted0]) ∧
      (sessionOf [posted0]).holder = 0 := by decide +kernel

/-- The invariants hold in a state with a claim, a pending record, a session and a CLAIM that waits, and its
step answers a next state. -/
def working : State :=
  settle { (held.withRecord 6 (.line 1) .pendingOpen .stopped).withSession eightStaged with
    pending := [.claim 1 0] }

theorem witness_invariants :
    (ListsExact working ∧ TimersByState working) ∧ StacksExact working ∧ PresenceConsistent working ∧
      AttnSettled working ∧ BuffersBounded working := by decide +kernel

theorem witness_StarvationLeavesNothingFree :
    NoneFreeWhileStarved heldStarved ∧ (heldStarved.line 9).starved ≠ none := by decide +kernel

theorem witness_ConfigurationStaysLegal : ConfigurationLegal working := by
  refine ⟨by decide +kernel, by decide +kernel, by decide +kernel, by decide +kernel, by decide +kernel, ?_⟩
  intro x hx
  have hw : working.session = some (sessionOf eightStaged) := by decide +kernel
  obtain rfl : sessionOf eightStaged = x := Option.some.inj (hw.symm.trans hx)
  refine ⟨by decide +kernel, by decide +kernel, ?_⟩
  intro e he
  simp only [sessionOf, eightStaged, List.mem_cons, List.not_mem_nil, or_false] at he
  obtain rfl | rfl | rfl | rfl | rfl | rfl | rfl | rfl := he <;> exact ⟨by decide, by decide⟩

theorem witness_invariants_step : ∃ t, step working = .next t := ⟨_, rfl⟩

end Sys2Proof.Tests
end

