-- ==== Sys2Proof/Proofs/PoolRelease.lean ====
section
/-! The chip reset values that the blocks read back, what RELEASE leaves of the holds, and from these the
Occurrence Pool at release (R28). -/

namespace Sys2Proof.Machine

variable (s : State)

/-! ### The blocks at their chip reset values -/

@[simp] theorem State.record_resetBlocks (u : Tag) : (resetBlocks s).record u = Record.reset :=
  Table.look_const _ u
@[simp] theorem State.occ_resetBlocks (u : Tag) : (resetBlocks s).occ u = none := by
  simp [State.occ, Record.reset]
@[simp] theorem State.list_resetBlocks (l : Level) : (resetBlocks s).list l = [] := Table.look_const _ l
@[simp] theorem State.line_resetBlocks (n : LineId) : (resetBlocks s).line n = LineSource.reset :=
  Table.look_const _ n
@[simp] theorem State.group_resetBlocks (g : GroupId) : (resetBlocks s).group g = Group.reset :=
  Table.look_const _ g
@[simp] theorem State.host_resetBlocks (h : HostId) : (resetBlocks s).host h = HostContext.reset :=
  Table.look_const _ h

/-- The holds are outside the blocks. -/
@[simp] theorem State.inReset_resetBlocks : (resetBlocks s).inReset = s.inReset := rfl

/-- The model's reset state is one whose blocks stand at their chip reset values already. -/
theorem resetBlocks_reset : resetBlocks State.reset = State.reset := by
  have hports : Table.mapAll (fun p => Port.resetWith p.csLow) State.reset.ports = State.reset.ports := by
    apply Table.ext_look
    intro h
    simp [State.reset, Port.resetWith]
  rw [resetBlocks, hports]

/-- Every tag is counted where no record is live. -/
theorem State.freeCount_of_all_free (hfree : ∀ u, s.occ u = none) : s.freeCount = 32 := by
  have hall : tags.countP (fun u => (s.occ u).isNone) = tags.length :=
    List.countP_eq_length.mpr fun u _ => by simp [hfree u]
  rw [State.freeCount, hall, tags, List.length_finRange]

/-- The blocks' chip reset values are those that R28 states of the pool. -/
theorem poolAtReset_resetBlocks : PoolAtReset (resetBlocks s) := by
  refine ⟨fun u => ?records, fun l => ?lists, ?count, fun g => ?live, fun n => ?lineMarks,
    fun g => ?groupMarks, fun h => ?hosts⟩
  case records => exact State.record_resetBlocks s u
  case lists => exact State.list_resetBlocks s l
  case count => exact State.freeCount_of_all_free _ (State.occ_resetBlocks s)
  case live => simp [Group.reset]
  case lineMarks => simp [LineSource.reset]
  case groupMarks => simp [Group.reset]
  case hosts => simp [HostContext.reset]

/-! ### RELEASE -/

/-- One condition no longer holds chip reset asserted (R5). -/
def State.dropHold (ended : ResetHold) (s : State) : State :=
  match ended with
  | .rstn => { s with rstnHold := false }
  | .power => { s with powerHold := false }

theorem exec_release_of_inReset (ended : ResetHold) (hr : s.inReset = true) :
    exec (.release ended) s = .next (resetBlocks (s.dropHold ended)) := by
  change execRelease ended s = _
  cases ended <;> simp [execRelease, hr, State.dropHold]

/-- Chip reset is released when the hold that ends is the last (R7). -/
theorem State.dropHold_inReset_of_last (ended : ResetHold)
    (hrstn : ended = .rstn → s.powerHold = false) (hpower : ended = .power → s.rstnHold = false) :
    (s.dropHold ended).inReset = false := by
  cases ended with
  | rstn => simp [State.dropHold, State.inReset, hrstn rfl]
  | power => simp [State.dropHold, State.inReset, hpower rfl]

/-- Settles O2: a release and the reset state alike put every block at its chip reset value. -/
theorem poolAfterRelease : Obligations.PoolAfterRelease := by
  refine ⟨fun s ended hr hrstn hpower => ?release, ?reset, rfl⟩
  case release =>
    have hreleased : (s.dropHold ended).inReset = false := s.dropHold_inReset_of_last ended hrstn hpower
    exact ⟨resetBlocks (s.dropHold ended), exec_release_of_inReset s ended hr,
      (State.inReset_resetBlocks _).trans hreleased, poolAtReset_resetBlocks _⟩
  case reset => exact resetBlocks_reset ▸ poolAtReset_resetBlocks State.reset

end Sys2Proof.Machine
end

