-- ==== Sys2Proof/Proofs/JoinFromOutside.lean ====
section
/-! What R60 and R68 say of the Offer Logic's functions, what the answering of a request leaves unchanged, and from
these the JOIN of a host that is ABSENT or FENCED (R124). -/

namespace Sys2Proof.Machine

variable (s : State)

/-! ### Offers and ATTN -/

theorem HostContext.floorAllows_iff (c : HostContext) (l : Level) :
    c.floorAllows l = true ↔ ∃ f, c.floor = some f ∧ l ≤ f := by
  cases hf : c.floor <;> simp [HostContext.floorAllows, hf]

theorem State.offersTo_iff (h : HostId) (c : Occurrence) :
    s.offersTo h c = true ↔ OfferConditions s h c := by
  cases hp : c.phase <;> simp [State.offersTo, hp, HostContext.floorAllows_iff, and_assoc]

theorem State.offerable_iff (h : HostId) (u : Tag) : s.offerable h u = true ↔ Offerable s h u := by
  cases hc : s.occ u with
  | none => simp [State.offerable, Offerable, hc]
  | some c => simp only [State.offerable, Offerable, hc, Option.any_some, decide_eq_true_eq, State.offersTo_iff]

theorem State.attnCondition_iff (h : HostId) :
    s.attnCondition h = true ↔
      s.inReset = false ∧ ((s.host h).queue ≠ [] ∨ ∃ u, Offerable s h u) := by
  simp [State.attnCondition, State.offerable_iff, tags]

/-- A host whose floor is CLOSED is offered nothing (R60, R134). -/
theorem not_offerable_of_floor_closed {s : State} {h : HostId} (hfloor : (s.host h).floor = none) (u : Tag) :
    ¬ Offerable s h u := by
  cases hc : s.occ u with
  | none => simp [Offerable, hc]
  | some c =>
    have hshut : ¬ OfferConditions s h c := by
      rintro ⟨-, ⟨f, hopen, -⟩, -⟩
      simp [hfloor] at hopen
    simpa only [Offerable, hc, Option.any_some, decide_eq_true_eq] using hshut

/-! ### The answer of a request -/

/-- The work of a port is no input of the Offer Logic: ATTN stays settled. -/
theorem attnSettled_setWork_settle (h : HostId) (w : PortWork) : AttnSettled (setWork h w (settle s)) := by
  intro g
  have hattn : (setWork h w (settle s)).attn.look g = (setWork h w (settle s)).attnCondition g :=
    Table.look_mapIdx _ _ _
  rw [hattn, State.attnCondition_iff]

/-- An answer coded over unchanged ports is the reply that waits at the port of its host (R177, R178). -/
theorem replies_setWork {s t : State} (hports : t.ports = s.ports) (h : HostId) (rt : RequestTag)
    (req : Request) (a : Answer) :
    Replies s (setWork h (.answered (replyFrame rt (requestCode req) a)) t) h rt req a.code a.data := by
  have hport : ∀ g, t.port g = s.port g := fun g => by rw [State.port, hports, State.port]
  exact ⟨by simp [setWork, hport], fun g hg => by simp [setWork, hg, hport]⟩

/-! ### JOIN -/

/-- The Host Context that a JOIN leaves (R124). -/
def HostContext.joined (c : HostContext) : HostContext :=
  { c with
    presence := .present, floor := none, generation := c.generation + 1, strikes := 0
    queue := [], overflow := false }

theorem State.setHost_setHost (h : HostId) (x y : HostContext) :
    (s.setHost h x).setHost h y = s.setHost h y := by
  simp [State.setHost, Table.put]

theorem becomePresent_flush (h : HostId) :
    becomePresent h (flush h s) = s.setHost h (s.host h).joined := by
  simp [becomePresent, flush, State.setHost_setHost, HostContext.joined]

/-- A JOIN from outside changes the Host Context alone, and tells the presence it found (R124, R126). -/
theorem joinRequest_of_outside (h : HostId)
    (hout : (s.host h).presence = .absent ∨ (s.host h).presence = .fenced) :
    joinRequest h s = (s.setHost h (s.host h).joined,
      okWith [(s.host h).generation + 1, byte h.val, 0x64, byte (s.host h).presence.code]) := by
  have hgen : (s.host h).joined.generation = (s.host h).generation + 1 := rfl
  obtain hp | hp := hout <;>
    simp [joinRequest, hp, becomePresent_flush, hgen, Config.partIdentity]

/-- Such a JOIN as its row carries it out. -/
theorem answerRequest_join_of_outside (h : HostId) (rt : RequestTag)
    (hout : (s.host h).presence = .absent ∨ (s.host h).presence = .fenced) :
    answerRequest h rt .join s =
      setWork h (.answered (replyFrame rt (requestCode .join)
        (okWith [(s.host h).generation + 1, byte h.val, 0x64, byte (s.host h).presence.code])))
        (settle (s.setHost h (s.host h).joined)) := by
  have hcarry : carryOut h .join s = settleAnswered (joinRequest h s) := rfl
  rw [answerRequest, hcarry, joinRequest_of_outside s h hout]
  rfl

/-- Settles O28: the JOIN's row leaves the joined Host Context, ATTN settled, and the reply at the port; its floor
being CLOSED, the host is offered nothing. -/
theorem joinFromAbsentOrFenced : Obligations.JoinFromAbsentOrFenced := by
  intro s h rt hserves hout
  have hexec : exec (.join h rt) s = .next (answerRequest h rt .join s) := by
    rw [exec_request_row (.join h rt) h rt .join s rfl, serve_of_serves h rt .join s hserves]
  rw [answerRequest_join_of_outside s h rt hout] at hexec
  have hjoined : (s.setHost h (s.host h).joined).host h = (s.host h).joined := State.host_setHost_same s h _
  refine ⟨_, hexec, hjoined, fun g hg => ?others, ⟨⟨rfl, rfl⟩, rfl⟩, ⟨rfl, rfl⟩,
    ⟨rfl, rfl, rfl, rfl, rfl, rfl, rfl⟩, ⟨rfl, rfl⟩, replies_setWork (s := s) rfl h rt .join _,
    attnSettled_setWork_settle _ h _, not_offerable_of_floor_closed ?closed⟩
  case others => exact State.host_setHost_ne s h g _ hg
  case closed => exact congrArg HostContext.floor hjoined

end Sys2Proof.Machine
end

