-- ==== Sys2Proof/Proofs/OpenSession.lean ====
section
/-! OPEN_SESSION at its blocks, one equation per row of R154, and from these its row of the table. -/

namespace Sys2Proof.Machine

variable (s : State)

/-! ### A request that passes the presence check -/

/-- A request of a PRESENT host passes the presence check (R122). -/
theorem carryOut_of_present (h : HostId) (req : Request) (hpresent : (s.host h).presence = .present) :
    carryOut h req s = performRequest h req s := by
  have hpass : refusal (admissionOf req) (s.host h).presence = none := by
    rw [hpresent]
    cases admissionOf req <;> rfl
  obtain ⟨code, hrefused, -⟩ | ⟨-, hcarry⟩ := carryOut_cases s h req
  · exact absurd (hpass.symm.trans hrefused) nofun
  · exact hcarry

/-- Such a request as its row carries it out: the effect of the rule that owns it, and the answer at the port. -/
theorem exec_row_of_present {c : Instr} {h : HostId} {rt : RequestTag} {req : Request}
    (hrow : rowRequest c = some (h, rt, req)) (hserves : Serves s h rt req)
    (hpresent : (s.host h).presence = .present) :
    exec c s = .next (setWork h
      (.answered (replyFrame rt (requestCode req) (performRequest h req s).2))
      (performRequest h req s).1) := by
  rw [exec_request_row c h rt req s hrow, serve_of_serves h rt req s hserves, answerRequest,
    carryOut_of_present s h req hpresent]

/-! ### The rows of R154 -/

variable {s} {h : HostId}

/-- An IDLE session opens with an empty list. -/
theorem openSessionRequest_of_idle (hidle : s.session = none) :
    openSessionRequest h s =
      ({ s with session := some { holder := h, timer := s.sessionTimer, staging := [] } },
        okWith (bytes16 s.policy.sessionTimeout ++ [0])) := by
  simp [openSessionRequest, hidle]

/-- The holder restarts the timer of its session and keeps its list. -/
theorem openSessionRequest_of_holder {x : Session} (hopen : s.session = some x) (hholder : x.holder = h) :
    openSessionRequest h s =
      ({ s with session := some { x with timer := s.sessionTimer } },
        okWith (bytes16 s.policy.sessionTimeout ++ [byte x.staging.length])) := by
  simp [openSessionRequest, hopen, hholder]

/-- The session of another host stays as it is. -/
theorem openSessionRequest_of_other {x : Session} (hopen : s.session = some x) (hother : x.holder ≠ h) :
    openSessionRequest h s = (s, { code := .held, data := [byte x.holder.val] }) := by
  simp [openSessionRequest, hopen, hother]

variable (s h)

/-- OPEN_SESSION changes no more than the session, in every row. -/
theorem openSessionRequest_changes_session :
    ∃ x, (openSessionRequest h s).1 = { s with session := x } := by
  cases hsession : s.session with
  | none => exact ⟨_, congrArg Prod.fst (openSessionRequest_of_idle hsession)⟩
  | some x =>
    by_cases hholder : x.holder = h
    · exact ⟨_, congrArg Prod.fst (openSessionRequest_of_holder hsession hholder)⟩
    · exact ⟨s.session, congrArg Prod.fst (openSessionRequest_of_other hsession hholder)⟩

/-- Settles O46: the effect on the session and the answer are those of the row of R154 that the session state
selects; the rest of the state is kept in every row. -/
theorem openSessionByItsState : Obligations.OpenSessionByItsState := by
  intro s h rt hserves hpresent
  have hexec : exec (.openSession h rt) s = .next (setWork h
      (.answered (replyFrame rt (requestCode .openSession) (openSessionRequest h s).2))
      (openSessionRequest h s).1) :=
    exec_row_of_present s (req := .openSession) rfl hserves hpresent
  obtain ⟨y, hchange⟩ := openSessionRequest_changes_session s h
  have hreplies := replies_setWork (congrArg State.ports hchange) h rt .openSession (openSessionRequest h s).2
  refine ⟨_, hexec, ?tables, ?pool, ?hosts, ?attn, ?board, ?policy, fun hidle => ?idle,
    fun x hopen hholder => ?holder, fun x hopen hother => ?other⟩
  case tables => rw [hchange]; exact ⟨⟨rfl, rfl⟩, rfl⟩
  case pool => rw [hchange]; exact ⟨rfl, rfl⟩
  case hosts => rw [hchange]; rfl
  case attn => rw [hchange]; rfl
  case board => rw [hchange]; exact ⟨rfl, rfl, rfl, rfl, rfl, rfl, rfl⟩
  case policy => rw [hchange]; rfl
  case idle =>
    rw [openSessionRequest_of_idle hidle] at hreplies ⊢
    exact ⟨rfl, hreplies⟩
  case holder =>
    rw [openSessionRequest_of_holder hopen hholder] at hreplies ⊢
    exact ⟨rfl, hreplies⟩
  case other =>
    rw [openSessionRequest_of_other hopen hother] at hreplies ⊢
    exact ⟨rfl, hreplies⟩

end Sys2Proof.Machine
end

