-- ==== Sys2Proof/Proofs/PeekReports.lean ====
section
/-! A request that every presence state is admitted to and that changes nothing answers alone; the items of PEEK as
R182 lists them, and from these its report. -/

namespace Sys2Proof.Machine

variable (s : State)

/-! ### A request that is always taken and changes nothing -/

/-- The requests of the first row of R122 pass the presence check whatever the presence. -/
theorem carryOut_of_always (h : HostId) (req : Request) (halways : admissionOf req = .always) :
    carryOut h req s = performRequest h req s := by
  rw [carryOut, halways]
  rfl

/-- An answer coded over the state it found is given alone. -/
theorem answersAlone_setWork (h : HostId) (rt : RequestTag) (req : Request) (a : Answer) :
    AnswersAlone s (setWork h (.answered (replyFrame rt (requestCode req) a)) s) h rt req a.code a.data :=
  ⟨replies_setWork rfl h rt req a,
    ⟨rfl, rfl, rfl, rfl, rfl, rfl, rfl⟩, rfl, ⟨⟨rfl, rfl⟩, rfl⟩, ⟨rfl, rfl⟩, rfl, rfl, rfl⟩

/-- Such a request, when its rule changes no state, leaves its answer at the port and the rest as it was. -/
theorem exec_row_answersAlone {c : Instr} {h : HostId} {rt : RequestTag} {req : Request} {a : Answer}
    (hrow : rowRequest c = some (h, rt, req)) (hserves : Serves s h rt req)
    (halways : admissionOf req = .always) (hunchanged : performRequest h req s = (s, a)) :
    ∃ t, exec c s = .next t ∧ AnswersAlone s t h rt req a.code a.data := by
  refine ⟨_, ?runs, answersAlone_setWork s h rt req a⟩
  case runs =>
    rw [exec_request_row c h rt req s hrow, serve_of_serves h rt req s hserves, answerRequest,
      carryOut_of_always s h req halways, hunchanged]

/-! ### The items of PEEK -/

/-- The offerable count is that of the records which R60 offers to the host (R69). -/
theorem State.offerableCount_eq (h : HostId) :
    s.offerableCount h = (List.finRange 32).countP (fun u => decide (Offerable s h u)) := by
  refine List.countP_congr fun u _ => ?_
  rw [decide_eq_true_eq, State.offerable_iff]

/-- The pool free count is that of the tags without a record. -/
theorem State.freeCount_eq : s.freeCount = (List.finRange 32).countP (fun u => decide (s.occ u = none)) := by
  refine List.countP_congr fun u _ => ?_
  rw [decide_eq_true_eq, Option.isNone_iff_eq_none]

theorem hostOrNone_sessionHolder :
    hostOrNone s.sessionHolder =
      match s.session with
      | some x => byte x.holder.val
      | none => 0xFF := by
  cases hsession : s.session <;> simp only [State.sessionHolder, hsession] <;> rfl

theorem floorByte_eq (f : Option Level) :
    floorByte f =
      match f with
      | some l => byte l.val
      | none => 0xFF := by
  cases f <;> rfl

/-- The data of PEEK, item by item in the order of R182. -/
theorem State.peekData_eq (h : HostId) :
    s.peekData h =
      [byte (s.list 0).length, byte (s.list 1).length, byte (s.list 2).length, byte (s.list 3).length,
        byte ((List.finRange 32).countP (fun u => decide (Offerable s h u))),
        byte (s.host h).presence.code, (s.host h).generation,
        floorByte (s.host h).floor, byte (s.host h).strikes,
        byte ((List.finRange 32).countP (fun u => decide (s.occ u = none))),
        hostOrNone s.sessionHolder, byte (s.host h).stack.length] ++
        (s.host h).stack.reverse.flatMap (fun e => [byte e.tag.val, byte e.level.val]) := by
  have hcounts : levels.map (fun l => byte (s.pendingCount l)) =
      [byte (s.list 0).length, byte (s.list 1).length, byte (s.list 2).length, byte (s.list 3).length] := rfl
  rw [State.peekData, hcounts, State.offerableCount_eq, State.freeCount_eq]
  rfl

/-- Settles O33: PEEK is taken in every presence state, its rule returns the state it found, and its data are the
items of R182. -/
theorem peekReports : Obligations.PeekReports := by
  intro s h rt hserves
  have hanswers : ∃ t, exec (.peek h rt) s = .next t ∧ AnswersAlone s t h rt .peek .ok (s.peekData h) :=
    exec_row_answersAlone s (a := okWith (s.peekData h)) rfl hserves rfl rfl
  rw [State.peekData_eq, floorByte_eq, hostOrNone_sessionHolder] at hanswers
  exact hanswers

end Sys2Proof.Machine
end

section
/-! What every step keeps, packaged once: a property that chip reset, the sampling of the lines, each event and each
request keep, and that does not read the clock or the ports, is kept by every step. -/

namespace Sys2Proof.Machine

/-! ### The part without its clock and its ports -/

/-- All of the state but the clock, the ports, the line pins, the free choices and the waiting commands. -/
def State.core (s : State) :
    Bool × Bool × Table Bool 4 × Table LineSource 48 × Table PostedSource 16 × Table Group 8 × Table Record 32 ×
      Table (List Tag) 4 × Table HostContext 4 × Option Session × Policy :=
  (s.rstnHold, s.powerHold, s.attn, s.lineSources, s.postedSources, s.groups, s.records, s.lists, s.hosts, s.session,
    s.policy)

/-- The tables, the pool, the hosts, the session and the Policy are read off the core. -/
theorem State.tables_of_core {s t : State} (h : t.core = s.core) :
    t.lineSources = s.lineSources ∧ t.postedSources = s.postedSources ∧ t.groups = s.groups ∧ t.records = s.records ∧
      t.lists = s.lists ∧ t.hosts = s.hosts ∧ t.session = s.session ∧ t.policy = s.policy := by
  simp only [State.core, Prod.mk.injEq] at h
  exact h.2.2.2

@[simp] theorem State.core_setPort (s : State) (h : HostId) (p : Port) : (s.setPort h p).core = s.core := rfl

@[simp] theorem State.core_setWork (s : State) (h : HostId) (w : PortWork) : (setWork h w s).core = s.core := rfl

theorem takeFrame_core (s : State) (h : HostId) (frame : List Byte) : (takeFrame h frame s).core = s.core := by
  unfold takeFrame
  split <;> rfl

theorem receiveFrame_core (s : State) (h : HostId) (frame : List Byte) : (receiveFrame h frame s).core = s.core := by
  unfold receiveFrame
  split
  · exact takeFrame_core s h frame
  · rfl

theorem endTransaction_core (s : State) (h : HostId) (x : Transaction) (mosi : List Bool) :
    (endTransaction h x mosi s).core = s.core := by
  unfold endTransaction
  dsimp only
  split
  · exact receiveFrame_core _ h _
  · rfl

theorem judgeWaiting_core (turn : Nat) (s : State) (h : HostId) : (judgeWaiting turn s h).core = s.core := by
  unfold judgeWaiting
  split <;> rfl

theorem foldl_core {α : Type} (f : State → α → State) (hf : ∀ s x, (f s x).core = s.core) (l : List α) :
    ∀ s, (l.foldl f s).core = s.core := by
  induction l with
  | nil => exact fun _ => rfl
  | cons x l ih => exact fun s => (ih (f s x)).trans (hf s x)

theorem execTransactionStart_core (s : State) (h : HostId) (early : Bool) :
    ∃ t, execTransactionStart h early s = .next t ∧ t.core = s.core := by
  unfold execTransactionStart
  dsimp only
  split
  · exact ⟨_, rfl, rfl⟩
  · split <;> exact ⟨_, rfl, rfl⟩

theorem execTransactionEnd_core (s : State) (h : HostId) (mosi : List Bool) :
    ∃ t, execTransactionEnd h mosi s = .next t ∧ t.core = s.core := by
  unfold execTransactionEnd
  dsimp only
  split
  · split
    · exact ⟨_, rfl, endTransaction_core _ _ _ _⟩
    · exact ⟨_, rfl, rfl⟩
  · exact ⟨_, rfl, rfl⟩

/-! ### The step -/

/-- What a property of the part needs so that every step keeps it. -/
structure StepClosed (P : State → Prop) : Prop where
  core : ∀ s t, t.core = s.core → P s → P t
  reset : ∀ s, P (resetBlocks s)
  sample : ∀ levels s, P s → P (sampleLines levels (countTimers s))
  event : ∀ e s, P s → P (deliver e s)
  request : ∀ h req s, P s → P (carryOut h req s).1

namespace StepClosed

variable {P : State → Prop} (hP : StepClosed P)
include hP

theorem carryOutAhead {s : State} (hs : P s) (g : HostId) : P (carryOutAhead g s) := by
  unfold Machine.carryOutAhead
  split
  case h_1 rt req _ _ => exact hP.core (carryOut g req s).1 _ rfl (hP.request g req s hs)
  case h_2 => exact hs

theorem catchUp {s : State} (hs : P s) (bound : Nat) : P (catchUp bound s) :=
  catchUp_keeps s P (fun s hs => hP.core s _ rfl hs) (fun g _ hs => hP.carryOutAhead hs g) bound hs

theorem answerRequest {s : State} (hs : P s) (h : HostId) (rt : RequestTag) (req : Request) :
    P (answerRequest h rt req s) :=
  hP.core (carryOut h req s).1 _ rfl (hP.request h req s hs)

theorem serve {s : State} (hs : P s) (h : HostId) (rt : RequestTag) (req : Request) : P (serve h rt req s) := by
  obtain ⟨-, he⟩ | ⟨-, bound, -, he⟩ | ⟨-, -, -, he⟩ | ⟨-, frame, -, he⟩ | ⟨-, -, -, -, he⟩ :=
    serve_cases s h rt req <;> rw [he]
  · exact hs
  · exact hP.answerRequest (hP.catchUp hs bound) h rt req
  · exact hP.core s _ (takeFrame_core s h _) hs
  · exact hP.core s _ rfl hs
  · exact hP.core s _ rfl hs

theorem placement {s : State} (hs : P s) (h : HostId) : P (placement h s) := by
  unfold Machine.placement
  split
  case h_1 => exact hP.core s _ rfl hs
  case h_2 => exact hP.core s _ rfl hs
  case h_3 rt req turn _ =>
    exact hP.core (carryOut h req (Machine.catchUp turn s)).1 _ rfl (hP.request h req _ (hP.catchUp hs turn))
  case h_4 => exact hs

theorem deliverAll {s : State} (hs : P s) (es : List DueEvent) : P (deliverAll es s) :=
  deliverAll_keeps P (fun s hs => hP.core s _ rfl hs) hP.event es s hs

theorem boundary {s : State} (hs : P s) (levels : BitVec 48) : P (boundary levels s) := by
  have howed : P { Machine.deliverAll s.outstanding s with divider := 0 } :=
    hP.core (Machine.deliverAll s.outstanding s) _ rfl (hP.deliverAll hs _)
  exact hP.deliverAll (hP.sample levels _ howed) _

theorem refclkEdge {s : State} (hs : P s) : P (refclkEdge s) := by
  unfold Machine.refclkEdge
  split
  · split
    · exact hP.core s _ rfl hs
    · exact hP.boundary hs _
  · exact hs

/-- An event acts while the part is clocked, or nothing happens. -/
theorem clockedEvent {s : State} (hs : P s) (e : DueEvent) :
    ∃ t, (if s.clocked then Host.Outcome.next (deliver e s) else .next s : Host.Outcome State Fault Refusal) = .next t ∧
      P t := by
  split
  · exact ⟨_, rfl, hP.event e s hs⟩
  · exact ⟨_, rfl, hs⟩

/-- The commands that are no request rows. -/
theorem exec_of_no_request {s : State} (hs : P s) (c : Instr) (hrow : rowRequest c = none) :
    ∃ t, exec c s = .next t ∧ P t := by
  cases c <;> simp only [rowRequest, reduceCtorEq] at hrow
  case chipReset cause =>
    cases cause
    · exact ⟨_, rfl, hP.reset _⟩
    · exact ⟨_, rfl, hs⟩
    · exact ⟨_, rfl, hP.reset _⟩
  case release ended =>
    change ∃ t, execRelease ended s = .next t ∧ P t
    unfold execRelease
    split
    · cases ended
      · exact ⟨_, rfl, hP.reset _⟩
      · exact ⟨_, rfl, hP.reset _⟩
    · exact ⟨_, rfl, hs⟩
  case refclkResume =>
    have hcore := foldl_core (judgeWaiting s.nextTurn) (judgeWaiting_core _) hostIds { s with refclk := true }
    exact ⟨_, rfl, hP.core s _ hcore hs⟩
  case tickBoundary levels =>
    refine ⟨_, exec_tickBoundary levels s, ?_⟩
    split
    · exact hP.boundary (s := { s with rawLevels := levels, divider := max s.divider Config.dividerTop })
        (hP.core s _ rfl hs) levels
    · exact hs
  case lineChange n => exact hP.clockedEvent hs (.line n)
  case windowExpiry u => exact hP.clockedEvent hs (.window u)
  case leaseExpiry u => exact hP.clockedEvent hs (.lease u)
  case sessionTimerExpiry => exact hP.clockedEvent hs .session
  case transactionStart h early =>
    obtain ⟨t, he, hcore⟩ := execTransactionStart_core s h early
    exact ⟨t, he, hP.core s _ hcore hs⟩
  case transactionEnd h mosi =>
    obtain ⟨t, he, hcore⟩ := execTransactionEnd_core s h mosi
    exact ⟨t, he, hP.core s _ hcore hs⟩
  case replyPlacement h =>
    change ∃ t, execReplyPlacement h s = .next t ∧ P t
    unfold execReplyPlacement
    split
    · exact ⟨_, rfl, hs⟩
    · exact ⟨_, rfl, hP.placement hs h⟩
  case refclkStop => exact ⟨_, rfl, hP.core s _ rfl hs⟩

theorem exec {s : State} (hs : P s) (c : Instr) : ∃ t, exec c s = .next t ∧ P t := by
  cases hrow : rowRequest c with
  | none => exact hP.exec_of_no_request hs c hrow
  | some row =>
    obtain ⟨h, rt, req⟩ := row
    exact ⟨_, exec_request_row c h rt req s hrow, hP.serve hs h rt req⟩

/-- Every step keeps the property. -/
theorem step {s t : State} (hs : P s) (hstep : step s = .next t) : P t := by
  have hstepped : ∃ t, Machine.step s = .next t ∧ P t := by
    unfold Machine.step
    split
    · exact ⟨_, rfl, hP.refclkEdge hs⟩
    case h_2 c rest _ => exact hP.exec (s := { s with pending := rest }) (hP.core s _ rfl hs) c
  obtain ⟨t', hstep', ht'⟩ := hstepped
  exact Host.Outcome.next.inj (hstep'.symm.trans hstep) ▸ ht'

end StepClosed

end Sys2Proof.Machine
end

section
/-! What the searches of the pool find, the descriptors that no event of the pool changes, and the closure principle of
the pool: a property that each elementary update keeps is kept by every trigger, grant and firing. -/

namespace Sys2Proof.Machine

variable (s : State)

/-! ### Finding records -/

theorem mem_tags (u : Tag) : u ∈ tags := List.mem_finRange u

/-- Of the tags with a property `find?` takes the lowest. -/
theorem tags_find?_eq_some_iff (p : Tag → Bool) (u : Tag) :
    tags.find? p = some u ↔ p u = true ∧ ∀ v, v < u → p v = false := by
  have hsorted : tags.Pairwise (· < ·) := List.pairwise_lt_finRange 32
  rw [List.find?_eq_some_iff_append]
  constructor
  · rintro ⟨hu, before, after, hsplit, hbefore⟩
    refine ⟨hu, fun v hv => ?_⟩
    rw [hsplit, List.pairwise_append, List.pairwise_cons] at hsorted
    obtain ⟨-, ⟨hafter, -⟩, -⟩ := hsorted
    have hmem : v ∈ before ++ u :: after := hsplit ▸ mem_tags v
    rw [List.mem_append, List.mem_cons] at hmem
    obtain hv' | rfl | hv' := hmem
    · simpa using hbefore v hv'
    · exact absurd hv (lt_irrefl v)
    · exact absurd hv (lt_asymm (hafter v hv'))
  · rintro ⟨hu, hlow⟩
    obtain ⟨before, after, hsplit⟩ := List.append_of_mem (mem_tags u)
    refine ⟨hu, before, after, hsplit, fun v hv => ?_⟩
    rw [hsplit, List.pairwise_append] at hsorted
    simpa using hlow v (hsorted.2.2 v hv u List.mem_cons_self)

theorem State.freeTag_eq_some_iff (u : Tag) : s.freeTag = some u ↔ LowestFree s u := by
  rw [State.freeTag, tags_find?_eq_some_iff]
  simp [LowestFree, ← Option.ne_none_iff_isSome]

theorem State.freeTag_eq_none_iff : s.freeTag = none ↔ ∀ u, s.occ u ≠ none := by
  simp [State.freeTag, mem_tags]

theorem State.occ_of_freeTag {s : State} {u : Tag} (h : s.freeTag = some u) : s.occ u = none :=
  ((s.freeTag_eq_some_iff u).mp h).1

theorem State.isPendingTag_of_occ {s : State} {u : Tag} {c : Occurrence} (h : s.occ u = some c) :
    s.isPendingTag u = c.phase.isPending := by simp [State.isPendingTag, h]

/-- A tag that the search for an origin's PENDING record finds carries one. -/
theorem State.occ_of_pendingTag {s : State} {o : Origin} {u : Tag} (h : s.pendingTag o = some u) :
    ∃ c, s.occ u = some c ∧ c.origin = o ∧ c.phase.isPending = true := by
  obtain ⟨hu, -⟩ := (tags_find?_eq_some_iff _ u).mp h
  cases hc : s.occ u with
  | none => simp [State.isLiveOf, hc] at hu
  | some c => exact ⟨c, rfl, by simpa [State.isLiveOf, State.isPendingTag, hc] using hu⟩

theorem State.pendingTag_eq_none_iff (o : Origin) : s.pendingTag o = none ↔ NoPendingRecord s o := by
  simp only [State.pendingTag, List.find?_eq_none, mem_tags, forall_const, NoPendingRecord]
  refine forall_congr' fun u => ?_
  cases hc : s.occ u with
  | none => simp [State.isLiveOf, hc]
  | some c => simp [State.isLiveOf, State.isPendingTag, hc, Phase.isClaimed, imp_iff_not_or]

/-- The one PENDING record of an origin is the one that is found. -/
theorem State.pendingTag_of_onlyPending {s : State} {o : Origin} {v : Tag} {d : Occurrence} (hd : s.occ v = some d)
    (honly : OnlyPending s o v d) : s.pendingTag o = some v := by
  obtain ⟨horigin, hpending, hothers⟩ := honly
  refine (tags_find?_eq_some_iff _ v).mpr ⟨by simp [State.isLiveOf, State.isPendingTag, hd, horigin, hpending], ?_⟩
  intro w hw
  have := hothers w hw.ne
  cases hc : s.occ w with
  | none => simp [State.isLiveOf, hc]
  | some c => simpa [State.isLiveOf, State.isPendingTag, hc, Phase.isClaimed, imp_iff_not_or] using this

/-- A tag that the search for an origin's CLAIMED record finds carries one. -/
theorem State.occ_of_claimedTag {s : State} {o : Origin} {u : Tag} (h : s.claimedTag o = some u) :
    ∃ c, s.occ u = some c ∧ c.origin = o ∧ c.phase.isClaimed = true := by
  obtain ⟨hu, -⟩ := (tags_find?_eq_some_iff _ u).mp h
  cases hc : s.occ u with
  | none => simp [State.isLiveOf, hc] at hu
  | some c => exact ⟨c, rfl, by simpa [State.isLiveOf, State.isPendingTag, hc, Phase.isClaimed] using hu⟩

theorem State.claimedTag_eq_none_iff (o : Origin) : s.claimedTag o = none ↔ NoClaimedRecord s o := by
  simp only [State.claimedTag, List.find?_eq_none, mem_tags, forall_const, NoClaimedRecord]
  refine forall_congr' fun u => ?_
  cases hc : s.occ u with
  | none => simp [State.isLiveOf, hc]
  | some c => simp [State.isLiveOf, State.isPendingTag, hc, imp_iff_not_or]

theorem State.liveTags_isEmpty_iff (o : Origin) : (s.liveTags o).isEmpty = true ↔ NoLiveRecord s o := by
  simp only [State.liveTags, List.isEmpty_iff, List.filter_eq_nil_iff, mem_tags, forall_const, NoLiveRecord]
  refine forall_congr' fun u => ?_
  cases hc : s.occ u with
  | none => simp [State.isLiveOf, hc]
  | some c => simp [State.isLiveOf, hc]

/-! ### The descriptors -/

/-- The committed descriptors of every origin. -/
def State.descs : (LineId → SourceDescriptor) × (PostedId → SourceDescriptor) × (GroupId → GroupDescriptor) :=
  (fun n => (s.line n).desc, fun n => (s.posted n).desc, fun g => (s.group g).desc)

section
variable {s} {t : State} (h : t.descs = s.descs)
include h

theorem State.line_desc_of_descs (n : LineId) : (t.line n).desc = (s.line n).desc :=
  congrFun (congrArg Prod.fst h) n
theorem State.posted_desc_of_descs (n : PostedId) : (t.posted n).desc = (s.posted n).desc :=
  congrFun (congrArg (fun x => x.2.1) h) n
theorem State.group_desc_of_descs (g : GroupId) : (t.group g).desc = (s.group g).desc :=
  congrFun (congrArg (fun x => x.2.2) h) g

theorem State.termsOf_of_descs (o : Origin) : t.termsOf o = s.termsOf o := by
  cases o
  · exact congrArg SourceDescriptor.terms (State.line_desc_of_descs h _)
  · exact congrArg SourceDescriptor.terms (State.posted_desc_of_descs h _)
  · exact congrArg GroupDescriptor.terms (State.group_desc_of_descs h _)

theorem State.enabledOf_of_descs (o : Origin) : t.enabledOf o = s.enabledOf o := by
  cases o
  · exact congrArg SourceDescriptor.enabled (State.line_desc_of_descs h _)
  · exact congrArg SourceDescriptor.enabled (State.posted_desc_of_descs h _)
  · exact congrArg GroupDescriptor.enabled (State.group_desc_of_descs h _)

theorem State.membersOf_of_descs (g : GroupId) : t.membersOf g = s.membersOf g := by
  simp [State.membersOf, State.line_desc_of_descs h]
end

theorem State.descs_ext {s t : State} (hl : ∀ n, (t.line n).desc = (s.line n).desc)
    (hp : ∀ n, (t.posted n).desc = (s.posted n).desc) (hg : ∀ g, (t.group g).desc = (s.group g).desc) :
    t.descs = s.descs :=
  Prod.ext (funext hl) (Prod.ext (funext hp) (funext hg))

@[simp] theorem State.descs_setLine (n : LineId) (x : LineSource) (hx : x.desc = (s.line n).desc) :
    (s.setLine n x).descs = s.descs := by
  refine State.descs_ext (fun m => ?_) (fun _ => rfl) (fun _ => rfl)
  by_cases hm : m = n
  · subst hm; simpa using hx
  · simp [hm]

@[simp] theorem State.descs_setPosted (n : PostedId) (x : PostedSource) (hx : x.desc = (s.posted n).desc) :
    (s.setPosted n x).descs = s.descs := by
  refine State.descs_ext (fun _ => rfl) (fun m => ?_) (fun _ => rfl)
  by_cases hm : m = n
  · subst hm; simpa using hx
  · simp [hm]

@[simp] theorem State.descs_setGroup (g : GroupId) (x : Group) (hx : x.desc = (s.group g).desc) :
    (s.setGroup g x).descs = s.descs := by
  refine State.descs_ext (fun _ => rfl) (fun _ => rfl) (fun m => ?_)
  by_cases hm : m = g
  · subst hm; simpa using hx
  · simp [hm]

@[simp] theorem State.descs_setRecord (u : Tag) (x : Record) : (s.setRecord u x).descs = s.descs := rfl
@[simp] theorem State.descs_setOcc (u : Tag) (x : Occurrence) : (s.setOcc u x).descs = s.descs := rfl
@[simp] theorem State.descs_setTimer (u : Tag) (x : Timer) : (s.setTimer u x).descs = s.descs := rfl
@[simp] theorem State.descs_setList (l : Level) (x : List Tag) : (s.setList l x).descs = s.descs := rfl
@[simp] theorem State.descs_setHost (h : HostId) (x : HostContext) : (s.setHost h x).descs = s.descs := rfl
@[simp] theorem descs_setLineStarved (n : LineId) (x : Option Nat) : (setLineStarved n x s).descs = s.descs :=
  State.descs_setLine s n _ rfl

@[simp] theorem State.descs_advanceSeq (o : Origin) : (s.advanceSeq o).descs = s.descs := by
  cases o
  · exact State.descs_setLine s _ _ rfl
  · exact State.descs_setPosted s _ _ rfl
  · exact State.descs_setGroup s _ _ rfl

@[simp] theorem descs_setLive (o : Origin) (x : Option Tag) : (setLive o x s).descs = s.descs := by
  cases o
  · rfl
  · rfl
  · exact State.descs_setGroup s _ _ rfl

@[simp] theorem descs_enterPending (u : Tag) (c : Occurrence) : (enterPending u c s).descs = s.descs := rfl

@[simp] theorem descs_createRecord (u : Tag) (o : Origin) (m : Nat) (p : Option PostedFields) (e : HostSet) :
    (createRecord u o m p e s).descs = s.descs := by
  simp [createRecord]

@[simp] theorem descs_openRecord (u : Tag) : (openRecord u s).descs = s.descs := by
  unfold openRecord
  split
  · split <;> rfl
  · rfl

@[simp] theorem descs_mergeInto (u : Tag) (k : Nat) : (mergeInto u k s).descs = s.descs := by
  unfold mergeInto
  split <;> rfl

@[simp] theorem descs_setAgain (u : Tag) : (setAgain u s).descs = s.descs := by
  unfold setAgain
  split <;> rfl

/-! ### The closure principle of the pool -/

/-- A property that the elementary updates of the pool and the tables keep: a record created in a FREE tag, a trigger
merged into a PENDING record, Again, the runtime fields of a group, and a starved mark, which is set anew only where no
record is FREE (R23, R106). -/
structure PoolClosed (P : State → Prop) : Prop where
  create : ∀ {s : State} {u : Tag} (o : Origin) (m : Nat) (p : Option PostedFields) (e : HostSet),
    s.occ u = none → P s → P (createRecord u o m p e s)
  merge : ∀ {s : State} {u : Tag} (k : Nat), s.isPendingTag u = true → P s → P (mergeInto u k s)
  again : ∀ {s : State} {u : Tag}, P s → P (setAgain u s)
  group : ∀ {s : State} {g : GroupId} (x : Group), x.desc = (s.group g).desc →
    (x.starved = true → (s.group g).starved = true ∨ s.freeTag = none) → P s → P (s.setGroup g x)
  mark : ∀ {s : State} {n : LineId} (x : Option Nat),
    (x ≠ none → (s.line n).starved ≠ none ∨ ((s.line n).desc.group = none ∧ s.freeTag = none)) → P s →
    P (setLineStarved n x s)

namespace PoolClosed

variable {P : State → Prop} (hP : PoolClosed P) {s : State} (hs : P s)
include hP hs

theorem createForLine {n : LineId} (hgroup : (s.line n).desc.group = none) : P (createForLine n s) := by
  unfold Machine.createForLine
  split
  case h_1 u hu => exact hP.create _ _ _ _ (State.occ_of_freeTag hu) hs
  case h_2 hfull => exact hP.mark _ (fun _ => .inr ⟨hgroup, hfull⟩) hs

theorem triggerLine {n : LineId} (hgroup : (s.line n).desc.group = none) : P (triggerLine n s) := by
  obtain ⟨k, hk, he⟩ | ⟨-, he, -⟩ | ⟨u, -, -, hu, he⟩ | ⟨u, -, -, -, -, -, he⟩ := triggerLine_cases s n <;> rw [he]
  · exact hP.mark _ (fun _ => .inl (by simp [hk])) hs
  · exact hP.createForLine hs hgroup
  · obtain ⟨c, hc, -, hpending⟩ := State.occ_of_pendingTag hu
    exact hP.merge 1 ((State.isPendingTag_of_occ hc).trans hpending) hs
  · exact hP.again hs

theorem requestGroup (g : GroupId) : P (requestGroup g s) := by
  unfold Machine.requestGroup
  split
  case h_1 u hu => exact hP.create _ _ _ _ (State.occ_of_freeTag hu) hs
  case h_2 hfull => exact hP.group _ rfl (fun _ => .inr hfull) hs

theorem memberTrigger (n : LineId) (g : GroupId) : P (memberTrigger n g s) := by
  have hcollect : P (s.setGroup g { s.group g with collect := insertSource n (s.group g).collect }) :=
    hP.group _ rfl .inl hs
  unfold Machine.memberTrigger
  dsimp only
  split
  · split
    · exact hcollect
    · split
      · exact hP.requestGroup hcollect g
      · split
        · exact hP.merge 1 ‹_› hcollect
        · exact hcollect
  · exact hs

theorem fire (n : LineId) : P (fire n s) := by
  unfold Machine.fire
  split
  · exact hP.triggerLine hs ‹_›
  · exact hP.memberTrigger hs n _

theorem levelTest (n : LineId) : P (levelTest n s) := by
  unfold Machine.levelTest
  split
  · split
    · split
      · exact hP.triggerLine hs ‹_›
      · exact hs
    · exact hP.memberTrigger hs n _
  · exact hs

theorem fireMembers (g : GroupId) (ns : List LineId) : P (fireMembers g ns s) := by
  unfold Machine.fireMembers
  induction ns generalizing s with
  | nil => exact hs
  | cons n ns ih =>
    rw [List.foldl_cons]
    apply ih
    split
    · exact hP.memberTrigger hs n g
    · exact hs

theorem requestAfterAbandon (g : GroupId) : P (requestAfterAbandon g s) := by
  unfold Machine.requestAfterAbandon
  split
  · exact hP.requestGroup hs g
  · exact hs

theorem refireAfterAbandon (o : Origin) : P (refireAfterAbandon o s) := by
  cases o
  · exact hP.levelTest hs _
  · exact hs
  · exact hP.requestAfterAbandon hs _

theorem clearStarved (o : Origin) : P (clearStarved o s) := by
  cases o
  · exact hP.mark none (fun h => absurd rfl h) hs
  · exact hs
  · exact hP.group _ rfl (fun h => absurd h Bool.false_ne_true) hs

theorem setLive (o : Origin) (x : Option Tag) : P (setLive o x s) := by
  cases o
  · exact hs
  · exact hs
  · exact hP.group _ rfl .inl hs

/-- The grant check on a tag that is FREE. -/
theorem grantCheck {u : Tag} (hfree : s.occ u = none) : P (grantCheck u s) := by
  unfold Machine.grantCheck
  split
  · exact hP.clearStarved (hP.create _ _ _ _ hfree hs) _
  · exact hs

end PoolClosed

/-- No event of the pool changes a descriptor. -/
theorem poolClosed_descs (d : (LineId → SourceDescriptor) × (PostedId → SourceDescriptor) × (GroupId → GroupDescriptor)) :
    PoolClosed (fun s => s.descs = d) where
  create o m p e _ hs := (descs_createRecord _ _ o m p e).trans hs
  merge k _ hs := (descs_mergeInto _ _ k).trans hs
  again hs := (descs_setAgain _ _).trans hs
  group x hx _ hs := (State.descs_setGroup _ _ x hx).trans hs
  mark x _ hs := (descs_setLineStarved _ _ x).trans hs

@[simp] theorem descs_triggerLine (n : LineId) (hgroup : (s.line n).desc.group = none) :
    (triggerLine n s).descs = s.descs := (poolClosed_descs s.descs).triggerLine rfl hgroup
@[simp] theorem descs_memberTrigger (n : LineId) (g : GroupId) : (memberTrigger n g s).descs = s.descs :=
  (poolClosed_descs s.descs).memberTrigger rfl n g
@[simp] theorem descs_fireMembers (g : GroupId) (ns : List LineId) : (fireMembers g ns s).descs = s.descs :=
  (poolClosed_descs s.descs).fireMembers rfl g ns
@[simp] theorem descs_levelTest (n : LineId) : (levelTest n s).descs = s.descs :=
  (poolClosed_descs s.descs).levelTest rfl n
@[simp] theorem descs_grantCheck (u : Tag) : (grantCheck u s).descs = s.descs := by
  unfold grantCheck
  split
  · exact (poolClosed_descs s.descs).clearStarved (descs_createRecord s _ _ _ _ _) _
  · rfl

/-! ### The freeing of a record -/

/-- The record `u` with the fields `c` FREE, and its group without it, before the grant check (R41 steps 1 to 3). -/
def vacate (u : Tag) (c : Occurrence) (s : State) : State :=
  setLive c.origin none
    ((if c.phase.isPending then leaveList u c.level s else s).setRecord u
      { epoch := (s.record u).epoch, timer := .stopped, occ := none })

theorem freeRecord_eq (u : Tag) (c : Occurrence) (hc : s.occ u = some c) :
    freeRecord u s = grantCheck u (vacate u c s) := by
  have hepoch : ((if c.phase.isPending then leaveList u c.level s else s).record u) = s.record u := by
    split <;> rfl
  simp only [freeRecord, hc, hepoch, vacate]

@[simp] theorem record_setLive (o : Origin) (x : Option Tag) (v : Tag) : (setLive o x s).record v = s.record v := by
  cases o <;> rfl
@[simp] theorem occ_setLive (o : Origin) (x : Option Tag) (v : Tag) : (setLive o x s).occ v = s.occ v := by
  cases o <;> rfl
@[simp] theorem list_setLive (o : Origin) (x : Option Tag) (l : Level) : (setLive o x s).list l = s.list l := by
  cases o <;> rfl
@[simp] theorem line_setLive (o : Origin) (x : Option Tag) (n : LineId) : (setLive o x s).line n = s.line n := by
  cases o <;> rfl
@[simp] theorem host_setLive (o : Origin) (x : Option Tag) (h : HostId) : (setLive o x s).host h = s.host h := by
  cases o <;> rfl

theorem vacate_record_same (u : Tag) (c : Occurrence) :
    (vacate u c s).record u = { epoch := (s.record u).epoch, timer := .stopped, occ := none } := by
  simp [vacate]

theorem vacate_record_ne (u v : Tag) (c : Occurrence) (hv : v ≠ u) : (vacate u c s).record v = s.record v := by
  simp only [vacate, record_setLive, State.record_setRecord_ne _ _ _ _ hv]
  split <;> rfl

theorem vacate_occ_same (u : Tag) (c : Occurrence) : (vacate u c s).occ u = none := by
  simp [State.occ, vacate_record_same]

theorem vacate_occ_ne (u v : Tag) (c : Occurrence) (hv : v ≠ u) : (vacate u c s).occ v = s.occ v := by
  simp [State.occ, vacate_record_ne s u v c hv]

@[simp] theorem vacate_line (u : Tag) (c : Occurrence) (n : LineId) : (vacate u c s).line n = s.line n := by
  simp only [vacate, line_setLive, State.line_setRecord]
  split <;> rfl

@[simp] theorem vacate_host (u : Tag) (c : Occurrence) (h : HostId) : (vacate u c s).host h = s.host h := by
  simp only [vacate, host_setLive, State.host_setRecord]
  split <;> rfl

@[simp] theorem descs_vacate (u : Tag) (c : Occurrence) : (vacate u c s).descs = s.descs := by
  simp only [vacate, descs_setLive, State.descs_setRecord]
  split <;> rfl

@[simp] theorem descs_freeRecord (u : Tag) : (freeRecord u s).descs = s.descs := by
  cases hc : s.occ u with
  | none => simp [freeRecord, hc]
  | some c => simp [freeRecord_eq s u c hc]

theorem vacate_group (u : Tag) (c : Occurrence) (g : GroupId) :
    (vacate u c s).group g = if c.origin = .group g then { s.group g with live := none } else s.group g := by
  have hbase : ∀ g, ((if c.phase.isPending then leaveList u c.level s else s).setRecord u
      { epoch := (s.record u).epoch, timer := .stopped, occ := none }).group g = s.group g := by
    intro g
    split <;> rfl
  unfold vacate
  cases ho : c.origin with
  | line n => simpa [setLive] using hbase g
  | posted n => simpa [setLive] using hbase g
  | group k =>
    by_cases hg : g = k
    · subst hg; simp [setLive, hbase]
    · simpa [setLive, hg, Ne.symm hg] using hbase g

end Sys2Proof.Machine
end

section
/-! The closure principles of the returns and of the requests: what a property of the pool, the tables and the stacks
needs so that a return, a commit, each event and each request keep it. -/

namespace Sys2Proof.Machine

/-! ### Returns -/

/-- What the return of record `u` (R45 to R49) needs: `Q` holds while the record is still CLAIMED but out of its stack,
and `P` once it is freed or back in PENDING. -/
structure ReturnClosed (u : Tag) (Q P : State → Prop) : Prop where
  pool : PoolClosed P
  notice : ∀ {s : State} (h : HostId) (n : Notice), P s → P (place h n s)
  timer : ∀ {s : State} (x : Timer), Q s → Q (s.setTimer u x)
  group : ∀ {s : State} {g : GroupId} (x : Group), x.desc = (s.group g).desc → x.starved = (s.group g).starved → Q s →
    Q (s.setGroup g x)
  mark : ∀ {s : State} (n : LineId), Q s → Q (setLineStarved n none s)
  merge : ∀ {s : State} {v : Tag} {d : Occurrence} (m k : Nat) (e : HostSet), v ≠ u → s.occ v = some d →
    d.phase.isPending = true → Q s → Q (s.setOcc v { d with merge := m, reoffer := k, exclusion := e })
  opens : ∀ {s : State} {v : Tag}, v ≠ u → Q s → Q (openRecord v s)
  free : ∀ {s : State} {c : Occurrence}, s.occ u = some c → c.phase.isClaimed = true → Q s → P (freeRecord u s)
  enter : ∀ {s : State} {c d : Occurrence}, s.occ u = some c → c.phase.isClaimed = true → d.level = c.level →
    d.origin = c.origin → Q s → P (enterPending u d s)

theorem Phase.isPending_eq_false_of_isClaimed {p : Phase} (h : p.isClaimed = true) : p.isPending = false := by
  simpa [Phase.isClaimed] using h

@[simp] theorem mergeBack_occ (s : State) (c : Occurrence) (u : Tag) : (mergeBack c s).occ u = s.occ u := by
  unfold mergeBack; split <;> rfl

@[simp] theorem openRecord_occ_ne (s : State) {u v : Tag} (h : v ≠ u) : (openRecord u s).occ v = s.occ v := by
  obtain he | ⟨rfl, -⟩ := openRecord_record s u v
  · simp [State.occ, he]
  · exact absurd rfl h

theorem mergeReturn_occ_ne (s : State) {u v : Tag} (c : Occurrence) (h : v ≠ u) :
    (mergeReturn u c s).occ v = s.occ v := by
  unfold mergeReturn
  dsimp only
  split
  · split
    · split <;> simp [h]
    · simp [h]
  · rfl

@[simp] theorem absorbStarved_occ (s : State) (c : Occurrence) (u : Tag) : (absorbStarved c s).2.occ u = s.occ u := by
  unfold absorbStarved
  repeat' split
  all_goals rfl

theorem absorbStarved_fields (s : State) (c : Occurrence) :
    ∃ m, (absorbStarved c s).1 = { c with merge := m } := by
  unfold absorbStarved
  repeat' split
  all_goals exact ⟨_, rfl⟩

theorem againMerged_fields (c : Occurrence) :
    ∃ a m, c.againMerged = { c with again := a, merge := m } := by
  unfold Occurrence.againMerged
  split
  · exact ⟨_, _, rfl⟩
  · exact ⟨c.again, c.merge, rfl⟩

namespace ReturnClosed

variable {u : Tag} {Q P : State → Prop} (hR : ReturnClosed u Q P) {s : State}
include hR

theorem placeAll (hs : P s) (who : HostId → Bool) (n : Notice) : P (placeAll who n s) := by
  unfold Machine.placeAll
  induction hostIds generalizing s with
  | nil => exact hs
  | cons h l ih =>
    rw [List.foldl_cons]
    apply ih
    split
    · exact hR.notice h n hs
    · exact hs

theorem noticePostedAbandoned (hs : P s) (c : Occurrence) : P (noticePostedAbandoned c s) := by
  unfold Machine.noticePostedAbandoned
  split
  · split
    · exact hR.notice _ _ hs
    · exact hs
  · exact hs

theorem abandon {c d : Occurrence} (hs : Q s) (hc : s.occ u = some c) (hclaimed : c.phase.isClaimed = true) :
    P (abandon u d s) :=
  hR.pool.refireAfterAbandon (hR.noticePostedAbandoned (hR.placeAll (hR.free hc hclaimed hs) _ _) d) _

theorem mergeBack (hs : Q s) (c : Occurrence) : Q (mergeBack c s) := by
  unfold Machine.mergeBack
  split
  · exact hR.group _ rfl rfl hs
  · exact hs

theorem mergeReturn (hs : Q s) {v : Tag} (hv : v ≠ u) (hpending : s.isPendingTag v = true) (c : Occurrence) :
    Q (mergeReturn v c s) := by
  unfold Machine.mergeReturn
  dsimp only
  split
  case h_1 d hd =>
    have hmerged := hR.merge (saturate Config.countMax d.merge (c.merge + 1)) (max d.reoffer c.reoffer)
      (enlarge (s.termsOf c.origin).route d.exclusion c.exclusion) hv hd
      ((State.isPendingTag_of_occ hd).symm.trans hpending) hs
    split
    · split
      · exact hR.opens hv hmerged
      · exact hmerged
    · exact hmerged
  case h_2 => exact hs

theorem absorbStarved (hs : Q s) (c : Occurrence) : Q (absorbStarved c s).2 := by
  unfold Machine.absorbStarved
  split
  · split
    · exact hR.mark _ hs
    · exact hs
  · exact hs

theorem returnKept {c d : Occurrence} (hs : Q s) (hc : s.occ u = some c) (hclaimed : c.phase.isClaimed = true)
    (hlevel : d.level = c.level) (horigin : d.origin = c.origin) : P (returnKept u d s).1 := by
  have hback := hR.mergeBack hs d
  have hcback : (Machine.mergeBack d s).occ u = some c := by simpa using hc
  obtain ⟨a, m, hagain⟩ := againMerged_fields d
  unfold Machine.returnKept
  dsimp only
  split
  case h_1 v hv =>
    obtain ⟨e, he, -, hpending⟩ := State.occ_of_pendingTag hv
    have hne : v ≠ u := by
      rintro rfl
      rw [hcback] at he
      cases he
      rw [Phase.isPending_eq_false_of_isClaimed hclaimed] at hpending
      exact Bool.false_ne_true hpending
    have hpend := (State.isPendingTag_of_occ he).trans hpending
    refine hR.free ?_ hclaimed (hR.mergeReturn hback hne hpend _)
    rw [mergeReturn_occ_ne _ _ hne.symm, hcback]
  case h_2 =>
    obtain ⟨m', habsorb⟩ := absorbStarved_fields (Machine.mergeBack d s) d.againMerged
    refine hR.enter (c := c) ?_ hclaimed ?_ ?_ (hR.absorbStarved hback _)
    · simpa using hc
    · rw [habsorb, hagain]; exact hlevel
    · rw [habsorb, hagain]; exact horigin

/-- A CLAIMED record returns by one of the courses, each of which leads from `Q` to `P`. -/
theorem returnRecord {c : Occurrence} (hs : Q s) (hc : s.occ u = some c) (hclaimed : c.phase.isClaimed = true)
    (h : HostId) : P (returnRecord u h s).1 := by
  have htimer := hR.timer .stopped hs
  have hc' : (s.setTimer u .stopped).occ u = some c := by simpa using hc
  obtain ⟨-, he⟩ | ⟨-, -, he⟩ | ⟨-, -, he⟩ := returnRecord_cases s u h c hc hclaimed <;> rw [he]
  · exact hR.free hc' hclaimed htimer
  · exact hR.abandon htimer hc' hclaimed
  · exact hR.returnKept htimer hc' hclaimed rfl rfl

end ReturnClosed

/-! ### Withdrawal and membership at a commit -/

namespace PoolClosed

variable {P : State → Prop} (hP : PoolClosed P)
include hP

/-- A source that leaves a collect set (R106, R108). -/
theorem leaveCollect {s : State} (hs : P s) (n : LineId) (g : Option GroupId) : P (leaveCollect n g s) := by
  cases g with
  | none => exact hs
  | some g =>
    refine hP.group _ rfl (fun h => .inl ?_) hs
    dsimp only at h
    split at h
    · cases h
    · exact h

variable (hfree : ∀ (s : State) (u : Tag), s.isPendingTag u = true → P s → P (freeRecord u s))
include hfree

omit hP in
/-- The withdrawal of a PENDING record (R42). -/
theorem withdraw {s : State} (hs : P s) (o : Origin) : P (withdraw o s) := by
  unfold Machine.withdraw
  split
  case h_1 u hu =>
    obtain ⟨c, hc, -, hpending⟩ := State.occ_of_pendingTag hu
    exact hfree s u ((State.isPendingTag_of_occ hc).trans hpending) hs
  case h_2 => exact hs

/-- Steps 2 and 3 of a Source Descriptor entry (R165), once the descriptor is in place. -/
theorem commitMembership {s : State} (n : LineId) (old new : SourceDescriptor) (hs : P s) :
    P (commitMembership n old new s) := by
  have hmark : ∀ m, P m → P (setLineStarved n none m) := fun m hm => hP.mark none (fun h => absurd rfl h) hm
  have hdisabled : P (if old.enabled ∧ ¬ new.enabled then
      Machine.leaveCollect n old.group (setLineStarved n none (Machine.withdraw (.line n) s)) else s) := by
    split
    · exact hP.leaveCollect (hmark _ (PoolClosed.withdraw hfree hs _)) n _
    · exact hs
  unfold Machine.commitMembership
  dsimp only
  split
  · split
    · exact hmark _ (hP.leaveCollect hdisabled n _)
    · exact hP.leaveCollect hdisabled n _
  · exact hdisabled

end PoolClosed

/-! ### Requests -/

/-- The claim procedure without the snapshot of a group (R77). -/
def claimRecord (h : HostId) (u : Tag) (c : Occurrence) (s : State) : State :=
  ((leaveList u c.level s).setRecord u
    { epoch := (s.record u).epoch + 1, timer := .running (s.leaseOf c.origin).toNat
      occ := some { c with phase := .claimed h 0 (s.snapshotOf c.origin) } }).setHost h
    { s.host h with stack := ⟨u, c.level⟩ :: (s.host h).stack }

theorem takeClaim_eq (s : State) (h : HostId) (u : Tag) (c : Occurrence) :
    takeClaim h u c s = claimSnapshot c.origin (claimRecord h u c s) := by
  have hlease : (leaveList u c.level s).leaseOf c.origin = s.leaseOf c.origin := by
    cases ho : c.origin <;> rfl
  simp only [takeClaim, claimRecord, hlease, Timer.start]
  rfl

/-- Record `u`, with the fields `c`, is CLAIMED by host `h`. -/
def ClaimedBy (s : State) (h : HostId) (u : Tag) (c : Occurrence) : Prop :=
  s.occ u = some c ∧ heldBy h c = true

theorem ClaimedBy.isClaimed {s : State} {h : HostId} {u : Tag} {c : Occurrence} (hc : ClaimedBy s h u c) :
    c.phase.isClaimed = true := by
  have := hc.2
  unfold heldBy at this
  split at this
  · rename_i hp; simp [hp, Phase.isClaimed, Phase.isPending]
  · cases this

theorem claimedBy_of_validToken {s : State} {h : HostId} {tag epoch : Byte} {u : Tag} {c : Occurrence}
    (hv : s.validToken h tag epoch = some (u, c)) : ClaimedBy s h u c := by
  obtain ⟨-, hc, ⟨k, ms, hp⟩, -⟩ := validToken_sound s h tag epoch u c hv
  exact ⟨hc, by simp [heldBy, hp]⟩

/-- What no event and no request touches: the clock, the holds, the line pins, the ports, and the model's own fields. -/
def State.bench (s : State) : Bool × Nat × Bool × Bool × BitVec 48 × Table Port 4 × Nat × List Instr :=
  (s.refclk, s.divider, s.rstnHold, s.powerHold, s.rawLevels, s.ports, s.choices, s.pending)

/-- The session stands with the staging list that it had, or is closed. -/
def SessionKept (s t : State) : Prop :=
  ∀ x, t.session = some x → ∃ y, s.session = some y ∧ y.staging = x.staging

theorem SessionKept.of_eq {s t : State} (h : t.session = s.session) : SessionKept s t :=
  fun x hx => ⟨x, h ▸ hx, rfl⟩

/-- What an event, or a request that configures nothing, needs to keep a property of the pool, the tables, the stacks
and the configuration. -/
structure ActionClosed (P : State → Prop) : Prop where
  pool : PoolClosed P
  rest : ∀ (s t : State), t.lineSources = s.lineSources → t.postedSources = s.postedSources → t.groups = s.groups →
    t.records = s.records → t.lists = s.lists → t.hosts = s.hosts →
    t.policy = s.policy → t.bench = s.bench → SessionKept s t → P s → P t
  context : ∀ {s : State} {h : HostId} (x : HostContext), x.stack = (s.host h).stack →
    ((s.host h).queue.length ≤ 8 → x.queue.length ≤ 8) → P s → P (s.setHost h x)
  filter : ∀ {s : State} {n : LineId} (f : Option LineFilter), P s → P (s.setLine n { s.line n with filter := f })
  opens : ∀ {s : State} {u : Tag}, P s → P (openRecord u s)
  move : ∀ {s : State} (o : Origin) (l : Level), P s → P (moveLevel o l s)
  withdraw : ∀ {s : State} {u : Tag}, s.isPendingTag u = true → P s → P (freeRecord u s)
  claim : ∀ {s : State} {h : HostId} {u : Tag} {c : Occurrence}, s.occ u = some c → s.offersTo h c = true → P s →
    P (claimRecord h u c s)
  extend : ∀ {s : State} {u : Tag} {c : Occurrence} (k : Nat), s.occ u = some c → c.phase.isClaimed = true → P s →
    P (s.setRecord u { s.record u with timer := .running k, occ := some { c with phase := c.phase.extended } })
  free : ∀ {s : State} {h : HostId} {u : Tag} {c : Occurrence}, ClaimedBy s h u c → P s →
    P (freeRecord u (removeEntry h u s))
  rearm : ∀ {s : State} {h : HostId} {u : Tag} {c : Occurrence}, ClaimedBy s h u c → P s →
    P (rearm u c (removeEntry h u s))
  back : ∀ {s : State} {h : HostId} {u : Tag} {c : Occurrence}, ClaimedBy s h u c → P s →
    P (returnRecord u h (removeEntry h u s)).1
  revoke : ∀ {s : State} (h : HostId), P s → P (revoke h s)

/-- What an event or any request needs to keep such a property. -/
structure RequestClosed (P : State → Prop) : Prop extends ActionClosed P where
  session : ∀ {s : State}, P s → ∀ x : Option Session, P { s with session := x }
  commitLine : ∀ {s : State} (n : LineId) (new : SourceDescriptor), P s →
    P (commitMembership n (s.line n).desc new (s.setLine n { s.line n with desc := new }))
  commitPosted : ∀ {s : State} (n : PostedId) (new : SourceDescriptor), P s →
    P (s.setPosted n { s.posted n with desc := new })
  commitGroup : ∀ {s : State} (g : GroupId) (new : GroupDescriptor), P s → P (s.setGroup g { s.group g with desc := new })
  commitPolicy : ∀ {s : State} (p : Policy), P s → P { s with policy := p }

/-- What the application of a staged entry needs to keep a property. -/
structure EntryClosed (P : State → Prop) : Prop where
  pool : PoolClosed P
  filter : ∀ {s : State} {n : LineId} (f : Option LineFilter), P s → P (s.setLine n { s.line n with filter := f })
  opens : ∀ {s : State} {u : Tag}, s.isPendingTag u = true → P s → P (openRecord u s)
  move : ∀ {s : State} (o : Origin) (l : Level), P s → P (moveLevel o l s)
  withdraw : ∀ {s : State} {u : Tag}, s.isPendingTag u = true → P s → P (freeRecord u s)
  commitLine : ∀ {s : State} (n : LineId) (new : SourceDescriptor), P s →
    P (commitMembership n (s.line n).desc new (s.setLine n { s.line n with desc := new }))
  commitPosted : ∀ {s : State} (n : PostedId) (new : SourceDescriptor), P s →
    P (s.setPosted n { s.posted n with desc := new })
  commitGroup : ∀ {s : State} (g : GroupId) (new : GroupDescriptor), P s → P (s.setGroup g { s.group g with desc := new })
  commitPolicy : ∀ {s : State} (p : Policy), P s → P { s with policy := p }

theorem RequestClosed.entry {P : State → Prop} (hP : RequestClosed P) : EntryClosed P where
  pool := hP.pool
  filter := hP.filter
  opens _ := hP.opens
  move := hP.move
  withdraw := hP.withdraw
  commitLine := hP.commitLine
  commitPosted := hP.commitPosted
  commitGroup := hP.commitGroup
  commitPolicy := hP.commitPolicy

/-- OPEN_SESSION, the STAGE requests and COMMIT, which open or change what is staged or committed. -/
def configures : Request → Bool
  | .openSession | .stageSource .. | .stageGroup .. | .stagePolicy _ | .commit => true
  | _ => false

theorem removeEntry_clearStrikes (s : State) (h : HostId) (u : Tag) :
    clearStrikes h (removeEntry h u s) = removeEntry h u (clearStrikes h s) := by
  simp [clearStrikes, removeEntry, State.setHost_setHost]

theorem place_removeEntry (s : State) (h : HostId) (u : Tag) (n : Notice) :
    place h n (removeEntry h u s) = removeEntry h u (place h n s) := by
  unfold place removeEntry HostContext.enqueue
  simp only [State.host_setHost_same]
  split
  · split <;> simp [State.setHost_setHost]
  · rfl

namespace ActionClosed

variable {P : State → Prop} (hP : ActionClosed P) {s : State} (hs : P s)
include hP hs

theorem settle : P (settle s) := 
  hP.rest s (Machine.settle s) rfl rfl rfl rfl rfl rfl rfl rfl (.of_eq rfl) hs

omit hs in
theorem settleAnswered {r : State × Answer} (hr : P r.1) : P (settleAnswered r).1 := by
  unfold Machine.settleAnswered
  split
  · exact hP.settle hr
  · exact hr

theorem sessionClosed : P { s with session := none } :=
  hP.rest s { s with session := none } rfl rfl rfl rfl rfl rfl rfl rfl (fun _ hx => by cases hx) hs

theorem place (h : HostId) (n : Notice) : P (place h n s) := by
  unfold Machine.place
  split
  · exact hP.context _ (by simp) (enqueue_queue_le _ _) hs
  · exact hs

theorem placeAll (who : HostId → Bool) (n : Notice) : P (placeAll who n s) := by
  unfold Machine.placeAll
  induction hostIds generalizing s with
  | nil => exact hs
  | cons h l ih =>
    rw [List.foldl_cons]
    apply ih
    split
    · exact hP.place hs h n
    · exact hs

theorem flush (h : HostId) : P (flush h s) := hP.context _ rfl (fun _ => Nat.zero_le 8) hs

theorem dropSession (h : HostId) : P (dropSession h s) := by
  unfold Machine.dropSession
  split
  · split
    · exact hP.sessionClosed hs
    · exact hs
  · exact hs

theorem setStanding (h : HostId) (p : Presence) (f : Option Level) : P (setStanding h p f s) :=
  hP.context _ rfl id hs

theorem becomePresent (h : HostId) : P (becomePresent h s) := hP.context _ rfl id hs

theorem openWindowsOf (h : HostId) : P (openWindowsOf h s) := by
  unfold Machine.openWindowsOf
  induction tags generalizing s with
  | nil => exact hs
  | cons u l ih =>
    rw [List.foldl_cons]
    apply ih
    split
    · exact hP.opens hs
    · exact hs

theorem drainCheck (h : HostId) : P (drainCheck h s) := by
  unfold Machine.drainCheck
  split
  · exact hP.flush (hP.context { s.host h with presence := .absent } rfl id hs) h
  · exact hs

theorem fence (h : HostId) : P (fence h s) := by
  have hrevoked := hP.revoke h (hP.setStanding hs h .fenced none)
  have hfenced : P (placeFenced h (Machine.flush h (Machine.revoke h (Machine.setStanding h .fenced none s)))) :=
    hP.context _ (by simp) (enqueue_queue_le _ _) (hP.flush hrevoked h)
  exact hP.openWindowsOf (hP.dropSession (hP.placeAll hfenced _ _) h) h

theorem strikeStep (h : HostId) : P (strikeStep h s) := by
  have hstruck : P (s.setHost h { s.host h with strikes := saturate Config.strikeMax (s.host h).strikes 1 }) :=
    hP.context _ rfl id hs
  unfold Machine.strikeStep
  split
  · dsimp only
    split
    · exact hP.fence hstruck h
    · exact hstruck
  · exact hs

/-! ### The requests, one by one -/

theorem joinRequest (h : HostId) : P (joinRequest h s).1 := by
  have hrejoined := hP.becomePresent (hP.flush (hP.dropSession (hP.revoke h hs) h) h) h
  unfold Machine.joinRequest
  dsimp only
  split
  · exact hP.becomePresent (hP.flush hs h) h
  · exact hP.becomePresent (hP.flush hs h) h
  · exact hrejoined
  · exact hrejoined

theorem leaveRequest (h : HostId) (manner : Byte) : P (leaveRequest h manner s).1 := by
  unfold Machine.leaveRequest
  split
  · unfold leaveGracefulRequest
    dsimp only
    apply hP.openWindowsOf
    split
    · exact hP.flush (hP.setStanding (hP.dropSession hs h) h _ _) h
    · exact hP.setStanding (hP.dropSession hs h) h _ _
  · split
    · unfold leaveImmediateRequest
      have hleft := hP.flush (hP.setStanding (hP.dropSession (hP.revoke h hs) h) h .absent none) h
      dsimp only
      split
      · exact hP.openWindowsOf hleft h
      · exact hleft
    · exact hs

theorem setFloorRequest (h : HostId) (arg : Byte) : P (setFloorRequest h arg s).1 := by
  unfold Machine.setFloorRequest
  split
  · exact hP.context _ rfl id hs
  · exact hs

theorem claimSnapshot (o : Origin) : P (claimSnapshot o s) := by
  cases o
  · exact hs
  · exact hs
  case group g =>
    have hempty : P (s.setGroup g { s.group g with collect := [] }) := hP.pool.group _ rfl .inl hs
    exact hP.pool.fireMembers hempty g _

theorem claimRequest (h : HostId) : P (claimRequest h s).1 := by
  unfold Machine.claimRequest
  split
  case h_1 u hu =>
    split
    case h_1 c hc =>
      dsimp only
      rw [takeClaim_eq]
      refine hP.claimSnapshot (hP.claim hc ?_ hs) _
      obtain ⟨l, -, hl⟩ := List.exists_of_findSome?_eq_some hu
      simpa [State.offerable, hc] using List.find?_some hl
    case h_2 => exact hs
  case h_2 => exact hs

theorem extendRequest (h : HostId) (tag epoch : Byte) : P (extendRequest h tag epoch s).1 := by
  unfold Machine.extendRequest
  split
  case h_1 => exact hs
  case h_2 u c hv =>
    dsimp only
    split
    · exact hP.extend _ (claimedBy_of_validToken hv).1 (claimedBy_of_validToken hv).isClaimed hs
    · exact hs

theorem noticePostedDone (h : HostId) (c : Occurrence) : P (noticePostedDone h c s) := by
  unfold Machine.noticePostedDone
  split
  · split
    · exact hP.place hs _ _
    · exact hs
  · exact hs

theorem completeRequest (h : HostId) (tag epoch : Byte) : P (completeRequest h tag epoch s).1 := by
  unfold Machine.completeRequest
  split
  case h_1 => exact hs
  case h_2 u c hv =>
    have hstruck : P (clearStrikes h s) := hP.context _ rfl id hs
    have hc : ClaimedBy (clearStrikes h s) h u c := claimedBy_of_validToken hv
    dsimp only
    rw [removeEntry_clearStrikes]
    split
    · exact hP.drainCheck (hP.rearm hc hstruck) h
    · exact hP.drainCheck (hP.noticePostedDone (hP.free hc hstruck) h c) h

theorem handbackRequest (h : HostId) (tag epoch : Byte) : P (handbackRequest h tag epoch s).1 := by
  unfold Machine.handbackRequest
  split
  case h_1 => exact hs
  case h_2 u c hv => exact hP.drainCheck (hP.back (claimedBy_of_validToken hv) hs) h

theorem raiseRequest (h : HostId) (source : Byte) (payload : BitVec 16) (notify : Byte) :
    P (raiseRequest h source payload notify s).1 := by
  unfold Machine.raiseRequest
  split
  · split
    · split
      · exact hs
      · split
        case h_1 hu =>
          dsimp only
          exact hP.pool.create _ _ _ _ (State.occ_of_freeTag hu) hs
        case h_2 => exact hs
    · exact hs
  · exact hs

theorem takeNoticeRequest (h : HostId) : P (takeNoticeRequest h s).1 := by
  unfold Machine.takeNoticeRequest
  dsimp only
  split
  case h_1 n rest hq => exact hP.context _ rfl (fun hle => by rw [hq] at hle; exact Nat.le_of_succ_le hle) hs
  case h_2 => exact hP.context _ rfl id hs

theorem withSession (h : HostId) (act : Session → State → State × Answer)
    (hact : ∀ x t, P t → P (act x t).1) : P (withSession h s act).1 := by
  unfold Machine.withSession
  split
  case h_1 x hx =>
    split
    · exact hact _ _ (hP.rest s _ rfl rfl rfl rfl rfl rfl rfl rfl (fun y hy => ⟨x, hx, by cases hy; rfl⟩) hs)
    · exact hs
  case h_2 => exact hs

theorem discardRequest (h : HostId) : P (discardRequest h s).1 :=
  hP.withSession hs h _ fun _ _ ht => hP.sessionClosed ht

/-! ### Requests and events -/

theorem performRequest (h : HostId) (req : Request) (hreq : configures req = false) : P (performRequest h req s).1 := by
  cases req with
  | join => exact hP.settleAnswered (hP.joinRequest hs h)
  | leave manner => exact hP.settleAnswered (hP.leaveRequest hs h manner)
  | setFloor floor => exact hP.settleAnswered (hP.setFloorRequest hs h floor)
  | claim => exact hP.settleAnswered (hP.claimRequest hs h)
  | extend tag epoch => exact hP.extendRequest hs h tag epoch
  | complete tag epoch => exact hP.settleAnswered (hP.completeRequest hs h tag epoch)
  | handback tag epoch => exact hP.settleAnswered (hP.handbackRequest hs h tag epoch)
  | raise source payload notify => exact hP.settleAnswered (hP.raiseRequest hs h source payload notify)
  | takeNotice => exact hP.settleAnswered (hP.takeNoticeRequest hs h)
  | openSession => cases hreq
  | stageSource source d => cases hreq
  | stageGroup group d => cases hreq
  | stagePolicy p => cases hreq
  | commit => cases hreq
  | discard => exact hP.discardRequest hs h
  | peek => exact hs
  | readPolicy => exact hs
  | readRecord tag =>
    change P (readRecordRequest tag s).1
    unfold readRecordRequest
    split <;> exact hs
  | readSource source =>
    change P (readSourceRequest source s).1
    unfold readSourceRequest
    split <;> exact hs
  | readGroup group =>
    change P (readGroupRequest group s).1
    unfold readGroupRequest
    split <;> exact hs

theorem judgeLineChange (n : LineId) (reference level : Bool) : P (judgeLineChange n reference level s) := by
  unfold Machine.judgeLineChange
  dsimp only
  split
  · split
    · exact hP.pool.levelTest hs n
    · exact hP.pool.mark none (fun h => absurd rfl h) hs
  · split
    · exact hP.pool.fire hs n
    · exact hs

theorem deliverLineChange (n : LineId) (f : LineFilter) : P (deliverLineChange n f s) := by
  unfold Machine.deliverLineChange
  dsimp only
  split
  · exact hP.judgeLineChange (hP.filter _ hs) n _ _
  · exact hP.filter _ hs

theorem lineEvent (n : LineId) : P (lineEvent n s) := by
  unfold Machine.lineEvent
  split
  · split
    · exact hP.settle (hP.deliverLineChange hs n _)
    · exact hs
  · exact hs

theorem windowEvent (u : Tag) : P (windowEvent u s) := by
  unfold Machine.windowEvent
  split
  · split
    · exact hP.settle (hP.opens hs)
    · exact hs
  · exact hs

theorem expireLease {h : HostId} {u : Tag} {c : Occurrence} (hc : ClaimedBy s h u c) : P (expireLease u h c s) := by
  have hplaced := hP.place hs h (.revoked u c.origin c.seq)
  have hkept : ClaimedBy (Machine.place h (.revoked u c.origin c.seq) s) h u c := by
    obtain ⟨-, he⟩ | ⟨-, he⟩ := place_cases s h (.revoked u c.origin c.seq) <;> rw [he] <;> exact hc
  unfold Machine.expireLease
  dsimp only
  rw [place_removeEntry]
  exact hP.drainCheck (hP.strikeStep (hP.back hkept hplaced) h) h

theorem leaseEvent (u : Tag) : P (leaseEvent u s) := by
  unfold Machine.leaseEvent
  split
  case h_1 c hc _ =>
    split
    case h_1 h k ms hp => exact hP.settle (hP.expireLease hs ⟨hc, by simp [heldBy, hp]⟩)
    case h_2 => exact hs
  case h_2 => exact hs

theorem sessionEvent : P (sessionEvent s) := by
  unfold Machine.sessionEvent
  split
  · split
    · exact hP.settle (hP.place (hP.sessionClosed hs) _ _)
    · exact hs
  · exact hs

theorem deliver (e : DueEvent) : P (deliver e s) := by
  cases e with
  | line n => exact hP.lineEvent hs n
  | window u => exact hP.windowEvent hs u
  | lease u => exact hP.leaseEvent hs u
  | session => exact hP.sessionEvent hs
  | seedTest n => exact hP.settle (hP.pool.levelTest hs n)

end ActionClosed

/-! ### The application of staged entries -/

namespace EntryClosed

variable {P : State → Prop} (hP : EntryClosed P) {s : State} (hs : P s)
include hP hs

theorem openOrigin (o : Origin) : P (openOrigin o s) := by
  unfold Machine.openOrigin
  split
  case h_1 u hu =>
    obtain ⟨c, hc, -, hpending⟩ := State.occ_of_pendingTag hu
    exact hP.opens ((State.isPendingTag_of_occ hc).trans hpending) hs
  case h_2 => exact hs

theorem withdrawOrigin (o : Origin) : P (Machine.withdraw o s) :=
  PoolClosed.withdraw (fun _ _ hu hs => hP.withdraw hu hs) hs o

theorem commitTerms (o : Origin) (old new : Terms) : P (commitTerms o old new s) := by
  have hmoved : P (if old.level ≠ new.level then moveLevel o new.level s else s) := by
    split
    · exact hP.move o _ hs
    · exact hs
  unfold Machine.commitTerms
  dsimp only
  generalize (if old.level ≠ new.level then moveLevel o new.level s else s) = m at hmoved ⊢
  split
  · exact hP.openOrigin hmoved o
  · exact hmoved

theorem commitStarved (n : LineId) (old new : SourceDescriptor) : P (commitStarved n old new s) := by
  unfold Machine.commitStarved
  split
  case isTrue hcond =>
    have hmark : ∀ x, P (setLineStarved n x s) := fun x =>
      hP.pool.mark x (fun _ => .inl (Option.isSome_iff_ne_none.mp hcond.1)) hs
    split
    · exact hmark _
    · split
      · split
        · exact hP.pool.again (hmark none)
        · exact hs
      · exact hs
  case isFalse => exact hs

theorem retakeReference (n : LineId) : P (retakeReference n s) := by
  unfold Machine.retakeReference
  split
  · exact hP.filter _ hs
  · exact hs

theorem commitFiring (n : LineId) (old new : SourceDescriptor) : P (commitFiring n old new s) := by
  unfold Machine.commitFiring
  split
  · exact hP.pool.levelTest (hP.retakeReference hs n) n
  · exact hs

theorem applyLine (n : LineId) (new : SourceDescriptor) : P (applyLine n new s) :=
  hP.commitFiring (hP.commitStarved (hP.commitTerms (hP.commitLine n new hs) _ _ _) n _ new) n _ new

theorem applyPosted (n : PostedId) (new : SourceDescriptor) : P (applyPosted n new s) := by
  have hdesc := hP.commitPosted n new hs
  unfold Machine.applyPosted
  dsimp only
  split
  · exact hP.commitTerms (hP.withdrawOrigin hdesc _) _ _ _
  · exact hP.commitTerms hdesc _ _ _

theorem disableGroup (g : GroupId) : P (disableGroup g s) :=
  hP.pool.group _ rfl (fun h => absurd h Bool.false_ne_true) (hP.withdrawOrigin hs _)

theorem applyGroup (l : List StagedEntry) (g : GroupId) (new : GroupDescriptor) : P (applyGroup l g new s) := by
  have hdesc := hP.commitGroup g new hs
  have hdisabled : P (if (s.group g).desc.enabled ∧ ¬ new.enabled then
      Machine.disableGroup g (s.setGroup g { s.group g with desc := new })
      else s.setGroup g { s.group g with desc := new }) := by
    split
    · exact hP.disableGroup hdesc g
    · exact hdesc
  have hterms := hP.commitTerms hdisabled (.group g) (s.group g).desc.terms new.terms
  unfold Machine.applyGroup
  dsimp only
  split
  · exact hP.pool.fireMembers hterms _ _
  · exact hterms

theorem applyEntry (l : List StagedEntry) (e : StagedEntry) : P (applyEntry l s e) := by
  cases e
  · exact hP.applyLine hs _ _
  · exact hP.applyPosted hs _ _
  · exact hP.applyGroup hs l _ _
  case policy p => exact hP.commitPolicy p hs

theorem applyEntries (l es : List StagedEntry) : P (es.foldl (Machine.applyEntry l) s) := by
  induction es generalizing s with
  | nil => exact hs
  | cons e es ih => exact ih (hP.applyEntry hs l e)

end EntryClosed

namespace RequestClosed

variable {P : State → Prop} (hP : RequestClosed P) {s : State} (hs : P s)
include hP hs

theorem openSessionRequest (h : HostId) : P (openSessionRequest h s).1 := by
  obtain ⟨x, hx⟩ := openSessionRequest_changes_session s h
  rw [hx]
  exact hP.session hs x

theorem stageRequest (h : HostId) (entry : Option StagedEntry) : P (stageRequest h entry s).1 := by
  apply hP.withSession hs
  intro x t ht
  split
  · exact ht
  · split
    · exact hP.session ht _
    · exact ht

/-! ### COMMIT -/

theorem applyCommit (h : HostId) (l : List StagedEntry) : P (applyCommit h l s) := by
  exact hP.placeAll (hP.sessionClosed (hP.entry.applyEntries hs l l)) _ _

theorem commitRequest (h : HostId) : P (commitRequest h s).1 := by
  apply hP.withSession hs
  intro x t ht
  split
  · exact ht
  · exact hP.applyCommit ht h _

/-! ### Every request -/

theorem performRequest (h : HostId) (req : Request) : P (performRequest h req s).1 := by
  cases req with
  | openSession => exact hP.openSessionRequest hs h
  | stageSource source d => exact hP.stageRequest hs h _
  | stageGroup group d => exact hP.stageRequest hs h _
  | stagePolicy p => exact hP.stageRequest hs h _
  | commit => exact hP.settleAnswered (hP.commitRequest hs h)
  | _ => exact hP.toActionClosed.performRequest hs h _ rfl

theorem carryOut (h : HostId) (req : Request) : P (carryOut h req s).1 := by
  obtain ⟨code, -, he⟩ | ⟨-, he⟩ := carryOut_cases s h req <;> rw [he]
  · exact hs
  · exact hP.performRequest hs h req

end RequestClosed

/-- A property of the pool, the tables and the stacks that events and requests keep is kept by every step. -/
theorem RequestClosed.stepClosed {P : State → Prop} (hP : RequestClosed P)
    (hcore : ∀ s t : State, t.core = s.core → P s → P t) (hreset : ∀ s, P (resetBlocks s))
    (hsample : ∀ levels s, P s → P (sampleLines levels (countTimers s))) : StepClosed P where
  core := hcore
  reset := hreset
  sample := hsample
  event e _ hs := hP.deliver hs e
  request h req _ hs := hP.carryOut hs h req

end Sys2Proof.Machine
end

section
/-! The pending lists and the timers (O54): while one record is on its way the lists and timers of the others stay
exact, and the record's entry to PENDING, or its freeing, makes them exact again. -/

namespace Sys2Proof.Machine

/-! ### Lists and timers of all records, and of all but one -/

/-- The lists hold exactly the PENDING records, and every timer runs as its record asks. -/
def PoolExact (s : State) : Prop := ListsExact s ∧ TimersByState s

/-- Record `u` stands in the list of level `l`. -/
def State.listed (s : State) (l : Level) (u : Tag) : Prop :=
  (s.occ u).any (fun c => c.phase.isPending && decide (c.level = l)) = true

/-- The timer of a record runs as its state asks (R30). -/
def Record.timed (r : Record) : Prop := r.timer.runs = r.occ.any (fun c => decide (c.phase ≠ .pendingOpen))

/-- As `PoolExact`, but record `u` stands in no list, and its timer may do as it likes. -/
def PoolExactBut (u : Tag) (s : State) : Prop :=
  (∀ l, (s.list l).Nodup ∧ ∀ v, v ∈ s.list l ↔ v ≠ u ∧ s.listed l v) ∧ ∀ v, v ≠ u → (s.record v).timed

section
variable {s t : State} {u : Tag}

/-- Both are about the records and the lists alone. -/
theorem PoolExact.of_pool (hr : t.records = s.records) (hl : t.lists = s.lists) (hs : PoolExact s) : PoolExact t := by
  have hrecord : ∀ v, t.record v = s.record v := fun v => by rw [State.record, hr, State.record]
  have hocc : ∀ v, t.occ v = s.occ v := fun v => by rw [State.occ, hrecord, State.occ]
  have hlist : ∀ l, t.list l = s.list l := fun l => by rw [State.list, hl, State.list]
  simpa only [PoolExact, ListsExact, TimersByState, hrecord, hocc, hlist] using hs

theorem PoolExactBut.of_pool (hr : t.records = s.records) (hl : t.lists = s.lists) (hs : PoolExactBut u s) :
    PoolExactBut u t := by
  have hrecord : ∀ v, t.record v = s.record v := fun v => by rw [State.record, hr, State.record]
  have hocc : ∀ v, t.occ v = s.occ v := fun v => by rw [State.occ, hrecord, State.occ]
  have hlist : ∀ l, t.list l = s.list l := fun l => by rw [State.list, hl, State.list]
  simpa only [PoolExactBut, State.listed, hrecord, hocc, hlist] using hs

theorem State.not_listed_of_not_pending (h : s.isPendingTag u = false) (l : Level) : ¬ s.listed l u := by
  intro hl
  cases hc : s.occ u with
  | none => simp [State.listed, hc] at hl
  | some c =>
    simp only [State.listed, hc, Option.any_some, Bool.and_eq_true] at hl
    rw [State.isPendingTag_of_occ hc, hl.1] at h
    exact Bool.false_ne_true h.symm

/-- A record that is not PENDING stands in no list. -/
theorem PoolExact.but (hs : PoolExact s) (hu : s.isPendingTag u = false) : PoolExactBut u s := by
  obtain ⟨hlists, htimers⟩ := hs
  refine ⟨fun l => ⟨(hlists l).1, fun v => ?_⟩, fun v _ => htimers v⟩
  rw [(hlists l).2 v]
  refine ⟨fun hv => ⟨?_, hv⟩, fun hv => hv.2⟩
  rintro rfl
  exact State.not_listed_of_not_pending hu l hv

/-- A PENDING record that leaves its list stands in none (R52). -/
theorem PoolExact.leave (hs : PoolExact s) {c : Occurrence} (hc : s.occ u = some c) :
    PoolExactBut u (leaveList u c.level s) := by
  obtain ⟨hlists, htimers⟩ := hs
  refine ⟨fun l => ?_, fun v _ => htimers v⟩
  by_cases hl : l = c.level
  · subst hl
    have hleft : (leaveList u c.level s).list c.level = (s.list c.level).filter (fun v => decide (v ≠ u)) := by
      simp [leaveList]
    rw [hleft]
    refine ⟨(hlists c.level).1.filter _, fun v => ?_⟩
    rw [List.mem_filter, (hlists c.level).2 v, decide_eq_true_eq, and_comm]
    rfl
  · have hkept : (leaveList u c.level s).list l = s.list l := by simp [leaveList, hl]
    rw [hkept]
    refine ⟨(hlists l).1, fun v => ?_⟩
    rw [(hlists l).2 v]
    refine ⟨fun hv => ⟨?_, hv⟩, fun hv => hv.2⟩
    rintro rfl
    simp only [hc, Option.any_some, Bool.and_eq_true, decide_eq_true_eq] at hv
    exact hl hv.2.symm

/-- The record on its way may be replaced. -/
theorem PoolExactBut.setRecord (hs : PoolExactBut u s) (r : Record) : PoolExactBut u (s.setRecord u r) := by
  obtain ⟨hlists, htimers⟩ := hs
  refine ⟨fun l => ⟨(hlists l).1, fun v => ?_⟩, fun v hv => by simpa [hv] using htimers v hv⟩
  rw [State.list_setRecord, (hlists l).2 v]
  refine and_congr_right fun hv => ?_
  simp [State.listed, hv]

/-- A record that stands in no list, as its state asks, with its timer right, completes the pool. -/
theorem PoolExactBut.exact (hs : PoolExactBut u s) (hu : s.isPendingTag u = false) (htimed : (s.record u).timed) :
    PoolExact s := by
  obtain ⟨hlists, htimers⟩ := hs
  refine ⟨fun l => ⟨(hlists l).1, fun v => ?_⟩, fun v => ?_⟩
  · rw [(hlists l).2 v]
    refine ⟨fun hv => hv.2, fun hv => ⟨?_, hv⟩⟩
    rintro rfl
    exact State.not_listed_of_not_pending hu l hv
  · by_cases hv : v = u
    · exact hv ▸ htimed
    · exact htimers v hv

/-- A PENDING record that joins the list of its level completes the pool (R51). -/
theorem PoolExactBut.join (hs : PoolExactBut u s) {c : Occurrence} (hc : s.occ u = some c)
    (hpending : c.phase.isPending = true) (htimed : (s.record u).timed) : PoolExact (joinList u c.level s) := by
  obtain ⟨hlists, htimers⟩ := hs
  refine ⟨fun l => ?_, fun v => ?_⟩
  · by_cases hl : l = c.level
    · subst hl
      have hjoined : (joinList u c.level s).list c.level = s.list c.level ++ [u] := by simp [joinList]
      rw [hjoined]
      constructor
      · rw [List.nodup_append]
        refine ⟨(hlists c.level).1, List.nodup_singleton u, ?_⟩
        rintro a ha b hb rfl
        exact (((hlists c.level).2 a).mp ha).1 (List.mem_singleton.mp hb)
      · intro v
        change v ∈ s.list c.level ++ [u] ↔ s.listed c.level v
        rw [List.mem_append, List.mem_singleton, (hlists c.level).2 v]
        by_cases hv : v = u
        · subst hv; simp [State.listed, hc, hpending]
        · simp [hv]
    · have hkept : (joinList u c.level s).list l = s.list l := by simp [joinList, hl]
      rw [hkept]
      refine ⟨(hlists l).1, fun v => ?_⟩
      change v ∈ s.list l ↔ s.listed l v
      rw [(hlists l).2 v]
      by_cases hv : v = u
      · subst hv; simp [State.listed, hc, Ne.symm hl]
      · simp [hv]
  · by_cases hv : v = u
    · exact hv ▸ htimed
    · exact htimers v hv

theorem PoolExactBut.enterPending (hs : PoolExactBut u s) (c : Occurrence) : PoolExact (enterPending u c s) := by
  unfold Machine.enterPending
  dsimp only
  split
  · refine (hs.setRecord _).join (c := { c with phase := .pendingExcl }) (by simp) rfl ?_
    simp [Record.timed, Timer.start, Timer.runs]
  · refine (hs.setRecord _).join (c := { c with phase := .pendingOpen }) (by simp) rfl ?_
    simp [Record.timed, Timer.runs]

theorem PoolExactBut.advanceSeq (hs : PoolExactBut u s) (o : Origin) : PoolExactBut u (s.advanceSeq o) := by
  cases o <;> exact hs.of_pool rfl rfl

theorem PoolExact.setLive (hs : PoolExact s) (o : Origin) (x : Option Tag) : PoolExact (setLive o x s) := by
  cases o <;> exact hs.of_pool rfl rfl

theorem PoolExactBut.createRecord (hs : PoolExactBut u s) (o : Origin) (m : Nat) (p : Option PostedFields)
    (e : HostSet) : PoolExact (createRecord u o m p e s) :=
  ((hs.advanceSeq o).enterPending _).setLive _ _

/-- A live record whose phase and level stay keeps the pool exact. -/
theorem PoolExact.setOcc (hs : PoolExact s) {c d : Occurrence} (hc : s.occ u = some c) (hphase : d.phase = c.phase)
    (hlevel : d.level = c.level) : PoolExact (s.setOcc u d) := by
  obtain ⟨hlists, htimers⟩ := hs
  refine ⟨fun l => ⟨(hlists l).1, fun v => ?_⟩, fun v => ?_⟩
  · change v ∈ s.list l ↔ _
    rw [(hlists l).2 v]
    by_cases hv : v = u
    · subst hv; simp [hc, hphase, hlevel]
    · simp [hv]
  · have hv' := htimers v
    by_cases hv : v = u
    · subst hv
      simpa [State.setOcc, State.occ, hphase, hc] using hv'.trans (by rw [hc]; simp)
    · simpa [State.setOcc, hv] using hv'

theorem PoolExact.openRecord (hs : PoolExact s) (u : Tag) : PoolExact (openRecord u s) := by
  unfold Machine.openRecord
  split
  case h_2 => exact hs
  case h_1 c hc =>
    split
    case h_2 => exact hs
    case h_1 hp =>
      obtain ⟨hlists, htimers⟩ := hs
      refine ⟨fun l => ⟨(hlists l).1, fun v => ?_⟩, fun v => ?_⟩
      · rw [State.list_setRecord, (hlists l).2 v]
        by_cases hv : v = u
        · subst hv; simp [hc, hp, Phase.isPending]
        · simp [hv]
      · by_cases hv : v = u
        · subst hv; simp [Timer.runs]
        · simpa [hv] using htimers v

theorem PoolExact.isPendingTag_of_claimed {h : HostId} {c : Occurrence} (hc : ClaimedBy s h u c) :
    s.isPendingTag u = false :=
  (State.isPendingTag_of_occ hc.1).trans (Phase.isPending_eq_false_of_isClaimed hc.isClaimed)
end

/-! ### The events of the pool -/

theorem State.isPendingTag_of_free {s : State} {u : Tag} (h : s.occ u = none) : s.isPendingTag u = false := by
  simp [State.isPendingTag, h]

theorem poolClosed_poolExact : PoolClosed PoolExact where
  create o m p e hfree hs := (hs.but (State.isPendingTag_of_free hfree)).createRecord o m p e
  merge k _ hs := by
    unfold mergeInto
    split
    case h_1 c hc => exact hs.setOcc hc rfl rfl
    case h_2 => exact hs
  again hs := by
    unfold setAgain
    split
    case h_1 c hc => exact hs.setOcc hc rfl rfl
    case h_2 => exact hs
  group x _ _ hs := hs.of_pool rfl rfl
  mark x _ hs := hs.of_pool rfl rfl

/-- A record that stands in no list is freed (R41). -/
theorem PoolExactBut.freeRecord {s : State} {u : Tag} {c : Occurrence} (hs : PoolExactBut u s) (hc : s.occ u = some c)
    (hclaimed : c.phase.isClaimed = true) : PoolExact (freeRecord u s) := by
  rw [freeRecord_eq s u c hc]
  refine poolClosed_poolExact.grantCheck ?_ (vacate_occ_same s u c)
  unfold vacate
  rw [if_neg (by simp [Phase.isPending_eq_false_of_isClaimed hclaimed])]
  refine ((hs.setRecord _).exact ?_ ?_).setLive _ _
  · simp [State.isPendingTag]
  · simp [Record.timed, Timer.runs]

/-- A PENDING record is withdrawn (R41, R42). -/
theorem PoolExact.withdraw {s : State} {u : Tag} (hs : PoolExact s) (hu : s.isPendingTag u = true) :
    PoolExact (freeRecord u s) := by
  cases hc : s.occ u with
  | none => simp [State.isPendingTag, hc] at hu
  | some c =>
    rw [freeRecord_eq s u c hc]
    refine poolClosed_poolExact.grantCheck ?_ (vacate_occ_same s u c)
    unfold vacate
    rw [if_pos ((State.isPendingTag_of_occ hc).symm.trans hu)]
    refine (((hs.leave hc).setRecord _).exact ?_ ?_).setLive _ _
    · simp [State.isPendingTag]
    · simp [Record.timed, Timer.runs]

theorem PoolExact.moveLevel {s : State} (hs : PoolExact s) (o : Origin) (l : Level) : PoolExact (moveLevel o l s) := by
  unfold Machine.moveLevel
  split
  case h_2 => exact hs
  case h_1 u hu =>
    obtain ⟨d, hd, -, hpending⟩ := State.occ_of_pendingTag hu
    split
    case h_2 => exact hs
    case h_1 c hc =>
      cases hd.symm.trans hc
      have htimed : (s.record u).timed := hs.2 u
      have hmoved : PoolExactBut u ((leaveList u d.level s).setOcc u { d with level := l }) := (hs.leave hd).setRecord _
      refine hmoved.join (c := { d with level := l }) (by simp) hpending ?_
      have hocc : (s.record u).occ = some d := hd
      simpa [State.setOcc, Record.timed, leaveList, hocc] using htimed

/-- The return of a record keeps the pool exact. -/
theorem returnClosed_poolExact (u : Tag) : ReturnClosed u (PoolExactBut u) PoolExact where
  pool := poolClosed_poolExact
  notice h n hs := by
    obtain ⟨-, he⟩ | ⟨-, he⟩ := place_cases _ h n <;> rw [he]
    · exact hs.of_pool rfl rfl
    · exact hs
  timer x hs := hs.setRecord _
  group x _ _ hs := hs.of_pool rfl rfl
  mark n hs := hs.of_pool rfl rfl
  merge {s v d} m k e hv hd hpending hs := by
    obtain ⟨hlists, htimers⟩ := hs
    refine ⟨fun l => ⟨(hlists l).1, fun w => ?_⟩, fun w hw => ?_⟩
    · change w ∈ s.list l ↔ _
      rw [(hlists l).2 w]
      by_cases hw : w = v
      · subst hw; simp [State.listed, hd]
      · simp [State.listed, hw]
    · by_cases hwv : w = v
      · subst hwv
        have := htimers w hw
        have hocc : (s.record w).occ = some d := hd
        simpa [State.setOcc, Record.timed, hocc] using this
      · simpa [State.setOcc, hwv] using htimers w hw
  opens {s v} hv hs := by
    obtain ⟨hlists, htimers⟩ := hs
    have hlist : ∀ l, (openRecord v s).list l = s.list l := fun l => by
      rw [State.list, openRecord_lists, State.list]
    have hopened : ∀ w, (openRecord v s).record w = s.record w ∨ w = v ∧ ∃ c, s.occ v = some c ∧ c.phase = .pendingExcl ∧
        (openRecord v s).record v = { s.record v with timer := .stopped, occ := some { c with phase := .pendingOpen } } :=
      openRecord_record s v
    refine ⟨fun l => ⟨hlist l ▸ (hlists l).1, fun w => ?_⟩, fun w hw => ?_⟩
    · rw [hlist, (hlists l).2 w]
      obtain he | ⟨rfl, c, hc, hp, he⟩ := hopened w
      · simp [State.listed, State.occ, he]
      · have hocc : (openRecord w s).occ w = some { c with phase := .pendingOpen } := by simp [State.occ, he]
        simp [State.listed, hc, hocc, hp, Phase.isPending]
    · obtain he | ⟨rfl, c, hc, hp, he⟩ := hopened w
      · exact he ▸ htimers w hw
      · rw [he]; simp [Record.timed, Timer.runs]
  free hc hclaimed hs := hs.freeRecord hc hclaimed
  enter _ _ _ _ hs := hs.enterPending _

theorem PoolExactBut.removeEntry {s : State} {u : Tag} (hs : PoolExactBut u s) (h : HostId) (v : Tag) :
    PoolExactBut u (removeEntry h v s) := hs.of_pool rfl rfl

/-! ### Events and requests -/

theorem PoolExact.returnRecord {s : State} (hs : PoolExact s) (u : Tag) (h : HostId) :
    PoolExact (returnRecord u h s).1 := by
  by_cases hclaimed : ∃ c, s.occ u = some c ∧ c.phase.isClaimed = true
  · obtain ⟨c, hc, hclaimed⟩ := hclaimed
    have hpend := (State.isPendingTag_of_occ hc).trans (Phase.isPending_eq_false_of_isClaimed hclaimed)
    exact (returnClosed_poolExact u).returnRecord (hs.but hpend) hc hclaimed h
  · rw [returnRecord_unclaimed s u h fun c hc => by
      simpa using fun hp => hclaimed ⟨c, hc, hp⟩]
    exact hs

theorem PoolExact.revoke {s : State} (hs : PoolExact s) (h : HostId) : PoolExact (revoke h s) := by
  unfold Machine.revoke
  generalize (s.host h).stack = l
  induction l generalizing s with
  | nil => exact hs
  | cons e l ih =>
    have hremoved : PoolExact (Machine.removeEntry h e.tag s) := hs.of_pool rfl rfl
    exact ih (hremoved.returnRecord e.tag h)

theorem requestClosed_poolExact : RequestClosed PoolExact where
  session hs _ := hs.of_pool rfl rfl
  commitPolicy _ hs := hs.of_pool rfl rfl
  pool := poolClosed_poolExact
  rest _ _ _ _ _ hr hl _ _ _ _ hs := hs.of_pool hr hl
  context _ _ _ hs := hs.of_pool rfl rfl
  filter _ hs := hs.of_pool rfl rfl
  opens hs := hs.openRecord _
  move o l hs := hs.moveLevel o l
  withdraw hu hs := hs.withdraw hu
  claim {s h u c} hc _ hs := by
    have hclaimed : PoolExact ((leaveList u c.level s).setRecord u
        { epoch := (s.record u).epoch + 1, timer := .running (s.leaseOf c.origin).toNat
          occ := some { c with phase := .claimed h 0 (s.snapshotOf c.origin) } }) := by
      refine ((hs.leave hc).setRecord _).exact ?_ ?_
      · simp [State.isPendingTag, Phase.isPending]
      · simp [Record.timed, Timer.runs]
    exact hclaimed.of_pool rfl rfl
  extend {s u c} k hc hclaimed hs := by
    have hpend := (State.isPendingTag_of_occ hc).trans (Phase.isPending_eq_false_of_isClaimed hclaimed)
    obtain ⟨h, k', ms, hp⟩ : ∃ h k' ms, c.phase = .claimed h k' ms := by
      cases hp : c.phase <;> simp_all [Phase.isClaimed, Phase.isPending]
    refine ((hs.but hpend).setRecord _).exact ?_ ?_
    · simp [State.isPendingTag, hp, Phase.extended, Phase.isPending]
    · simp [Record.timed, Timer.runs, hp, Phase.extended]
  free {s h u c} hc hs :=
    ((hs.but (PoolExact.isPendingTag_of_claimed hc)).removeEntry h u).freeRecord (c := c) hc.1 hc.isClaimed
  rearm {s h u c} hc hs :=
    (((hs.but (PoolExact.isPendingTag_of_claimed hc)).removeEntry h u).advanceSeq _).enterPending _
  back {s h u c} hc hs := (hs.of_pool (t := Machine.removeEntry h u s) rfl rfl).returnRecord u h
  revoke h hs := hs.revoke h
  commitLine n new hs := poolClosed_poolExact.commitMembership (fun _ _ hu hs => hs.withdraw hu) n _ new
    (hs.of_pool rfl rfl)
  commitPosted _ _ hs := hs.of_pool rfl rfl
  commitGroup _ _ hs := hs.of_pool rfl rfl

/-! ### The step -/

theorem poolExact_resetBlocks (s : State) : PoolExact (resetBlocks s) := by
  refine ⟨fun l => ?_, fun u => ?_⟩
  · simp
  · simp [Record.reset, Timer.runs]

theorem Timer.tick_runs (x : Timer) : x.tick.runs = x.runs := by
  cases x with
  | stopped => rfl
  | due => rfl
  | running k => cases k <;> rfl

theorem record_sample (levels : BitVec 48) (s : State) (u : Tag) :
    (sampleLines levels (countTimers s)).record u = { s.record u with timer := (s.record u).timer.tick } :=
  Table.look_mapAll _ _ u

/-- The timers that count are those that run (R3). -/
theorem PoolExact.sample {s : State} (hs : PoolExact s) (levels : BitVec 48) :
    PoolExact (sampleLines levels (countTimers s)) := by
  obtain ⟨hlists, htimers⟩ := hs
  have hocc : ∀ u, (sampleLines levels (countTimers s)).occ u = s.occ u := fun u => by
    rw [State.occ, record_sample, State.occ]
  refine ⟨fun l => ⟨(hlists l).1, fun u => ?_⟩, fun u => ?_⟩
  · rw [hocc]; exact (hlists l).2 u
  · rw [hocc, record_sample]; exact (Timer.tick_runs _).trans (htimers u)

/-- Settles O54: events and requests keep the lists and timers exact, and so do chip reset and the counting of the
timers. -/
theorem pendingListsStayExact : Obligations.PendingListsStayExact := by
  intro s t hs hstep
  have hcore : ∀ s t : State, t.core = s.core → PoolExact s → PoolExact t := fun s t hcore hs => by
    obtain ⟨-, -, -, hr, hl, -⟩ := State.tables_of_core hcore
    exact hs.of_pool hr hl
  exact (requestClosed_poolExact.stepClosed hcore poolExact_resetBlocks fun levels _ hs => hs.sample levels).step hs hstep

end Sys2Proof.Machine
end

section
/-! What a creation makes of every table and record, and which origin a freed tag is granted to (R43). -/

namespace Sys2Proof.Machine

variable (s : State)

/-! ### Sequence counters and live-record references -/

theorem line_advanceSeq (o : Origin) (n : LineId) :
    (s.advanceSeq o).line n = if o = .line n then { s.line n with seq := (s.line n).seq + 1 } else s.line n := by
  cases o with
  | line m =>
    by_cases hm : m = n
    · subst hm; simp [State.advanceSeq]
    · simp [State.advanceSeq, hm, Ne.symm hm]
  | posted m => rfl
  | group m => rfl

theorem posted_advanceSeq (o : Origin) (n : PostedId) :
    (s.advanceSeq o).posted n =
      if o = .posted n then { s.posted n with seq := (s.posted n).seq + 1 } else s.posted n := by
  cases o with
  | line m => rfl
  | posted m =>
    by_cases hm : m = n
    · subst hm; simp [State.advanceSeq]
    · simp [State.advanceSeq, hm, Ne.symm hm]
  | group m => rfl

theorem group_advanceSeq (o : Origin) (g : GroupId) :
    (s.advanceSeq o).group g = if o = .group g then { s.group g with seq := (s.group g).seq + 1 } else s.group g := by
  cases o with
  | line m => rfl
  | posted m => rfl
  | group m =>
    by_cases hm : m = g
    · subst hm; simp [State.advanceSeq]
    · simp [State.advanceSeq, hm, Ne.symm hm]

@[simp] theorem seqOf_advanceSeq (o : Origin) : (s.advanceSeq o).seqOf o = s.seqOf o + 1 := by
  cases o <;> simp [State.advanceSeq, State.seqOf]

@[simp] theorem record_advanceSeq (o : Origin) (u : Tag) : (s.advanceSeq o).record u = s.record u := by
  cases o <;> rfl
@[simp] theorem occ_advanceSeq (o : Origin) (u : Tag) : (s.advanceSeq o).occ u = s.occ u := by
  cases o <;> rfl
@[simp] theorem list_advanceSeq (o : Origin) (l : Level) : (s.advanceSeq o).list l = s.list l := by
  cases o <;> rfl
@[simp] theorem host_advanceSeq (o : Origin) (h : HostId) : (s.advanceSeq o).host h = s.host h := by
  cases o <;> rfl

theorem group_setLive (o : Origin) (x : Option Tag) (g : GroupId) :
    (setLive o x s).group g = if o = .group g then { s.group g with live := x } else s.group g := by
  cases o with
  | line m => rfl
  | posted m => rfl
  | group m =>
    by_cases hm : m = g
    · subst hm; simp [setLive]
    · simp [setLive, hm, Ne.symm hm]

@[simp] theorem posted_setLive (o : Origin) (x : Option Tag) (n : PostedId) :
    (setLive o x s).posted n = s.posted n := by
  cases o <;> rfl

/-! ### Entry to PENDING -/

@[simp] theorem line_enterPending (u : Tag) (c : Occurrence) (n : LineId) :
    (enterPending u c s).line n = s.line n := rfl
@[simp] theorem posted_enterPending (u : Tag) (c : Occurrence) (n : PostedId) :
    (enterPending u c s).posted n = s.posted n := rfl
@[simp] theorem group_enterPending (u : Tag) (c : Occurrence) (g : GroupId) :
    (enterPending u c s).group g = s.group g := rfl
@[simp] theorem host_enterPending (u : Tag) (c : Occurrence) (h : HostId) :
    (enterPending u c s).host h = s.host h := rfl

theorem windowHost_isSome_iff (terms : Terms) (exclusion : HostSet) :
    (s.windowHost terms exclusion).isSome = true ↔ WindowHolds s terms exclusion := by
  cases hp : terms.preferred with
  | none => simp [State.windowHost, WindowHolds, hp]
  | some p => simp [State.windowHost, WindowHolds, hp]

/-- A record that enters a PENDING state (R30, R34, R51, R55). -/
theorem entersPending_enterPending (u : Tag) (c : Occurrence) :
    EntersPending s (enterPending u c s) u (s.termsOf c.origin) c := by
  refine ⟨?_, enterPending_list s u c, fun l hl => enterPending_list_ne s u c l hl,
    fun v hv => enterPending_record_ne s u v c hv⟩
  have hwindow := windowHost_isSome_iff s (s.termsOf c.origin) c.exclusion
  obtain ⟨p, hp, hr⟩ | ⟨hp, hr⟩ := enterPending_record s u c
  · exact .inl ⟨hwindow.mp (by rw [hp]; rfl), hr⟩
  · refine .inr ⟨fun h => ?_, hr⟩
    simpa [hp] using hwindow.mpr h

theorem enterPending_occ_same (u : Tag) (c : Occurrence) :
    ∃ p : Phase, p.isPending = true ∧ (enterPending u c s).occ u = some { c with phase := p } := by
  obtain ⟨p, -, hr⟩ | ⟨-, hr⟩ := enterPending_record s u c
  · exact ⟨.pendingExcl, rfl, by rw [State.occ, hr]⟩
  · exact ⟨.pendingOpen, rfl, by rw [State.occ, hr]⟩

theorem enterPending_occ_ne {u v : Tag} (c : Occurrence) (hv : v ≠ u) : (enterPending u c s).occ v = s.occ v := by
  rw [State.occ, enterPending_record_ne s u v c hv, State.occ]

theorem windowHolds_congr {s t : State} (h : ∀ p, (t.host p).presence = (s.host p).presence) (terms : Terms)
    (exclusion : HostSet) : WindowHolds t terms exclusion ↔ WindowHolds s terms exclusion := by
  simp only [WindowHolds, h]

/-- Entry to PENDING read back in a state with the same records, lists and presences. -/
theorem EntersPending.of_eq {s s' t : State} {u : Tag} {terms : Terms} {c : Occurrence}
    (hrecord : ∀ v, s'.record v = s.record v) (hlist : ∀ l, s'.list l = s.list l)
    (hpresence : ∀ p, (s'.host p).presence = (s.host p).presence) (h : EntersPending s' t u terms c) :
    EntersPending s t u terms c := by
  obtain ⟨hentered, hjoined, hlists, hothers⟩ := h
  refine ⟨?_, by rw [hjoined, hlist], fun l hl => by rw [hlists l hl, hlist],
    fun v hv => by rw [hothers v hv, hrecord]⟩
  simpa only [EnteredRecord, windowHolds_congr hpresence, hrecord] using hentered

/-- The same of the state it leads to. -/
theorem EntersPending.to_eq {s t t' : State} {u : Tag} {terms : Terms} {c : Occurrence}
    (hrecord : ∀ v, t'.record v = t.record v) (hlist : ∀ l, t'.list l = t.list l) (h : EntersPending s t u terms c) :
    EntersPending s t' u terms c := by
  obtain ⟨hentered, hjoined, hlists, hothers⟩ := h
  exact ⟨by rw [hrecord]; exact hentered, by rw [hlist, hjoined], fun l hl => by rw [hlist, hlists l hl],
    fun v hv => by rw [hrecord, hothers v hv]⟩

/-! ### Creation -/

/-- A created record (R32): it enters a PENDING state with the next sequence number and the committed level. -/
theorem entersPending_createRecord (u : Tag) (o : Origin) (m : Nat) (p : Option PostedFields) (e : HostSet) :
    EntersPending s (createRecord u o m p e s) u (s.termsOf o)
      (createdFields o (s.seqOf o + 1) (s.termsOf o).level m p e) := by
  have hterms : (s.advanceSeq o).termsOf o = s.termsOf o := State.termsOf_of_descs (State.descs_advanceSeq s o) o
  have hentered := entersPending_enterPending (s.advanceSeq o) u
    (createdFields o (s.seqOf o + 1) (s.termsOf o).level m p e)
  have hcreate : createRecord u o m p e s = setLive o (some u)
      (enterPending u (createdFields o (s.seqOf o + 1) (s.termsOf o).level m p e) (s.advanceSeq o)) := by
    simp only [createRecord, seqOf_advanceSeq, hterms, createdFields]
  rw [hcreate]
  have horigin : (s.advanceSeq o).termsOf (createdFields o (s.seqOf o + 1) (s.termsOf o).level m p e).origin =
      s.termsOf o := hterms
  rw [horigin] at hentered
  exact (hentered.of_eq (record_advanceSeq s o) (list_advanceSeq s o) (fun p => by simp)).to_eq
    (record_setLive _ o _) (list_setLive _ o _)

theorem createRecord_line (u : Tag) (o : Origin) (m : Nat) (p : Option PostedFields) (e : HostSet) (n : LineId) :
    (createRecord u o m p e s).line n =
      if o = .line n then { s.line n with seq := (s.line n).seq + 1 } else s.line n := by
  simp [createRecord, line_advanceSeq]

theorem createRecord_posted (u : Tag) (o : Origin) (m : Nat) (p : Option PostedFields) (e : HostSet) (n : PostedId) :
    (createRecord u o m p e s).posted n =
      if o = .posted n then { s.posted n with seq := (s.posted n).seq + 1 } else s.posted n := by
  simp [createRecord, posted_advanceSeq]

theorem createRecord_group (u : Tag) (o : Origin) (m : Nat) (p : Option PostedFields) (e : HostSet) (g : GroupId) :
    (createRecord u o m p e s).group g =
      if o = .group g then { s.group g with seq := (s.group g).seq + 1, live := some u } else s.group g := by
  simp only [createRecord, group_setLive, group_enterPending, group_advanceSeq]
  split <;> rfl

theorem createRecord_occ_same (u : Tag) (o : Origin) (m : Nat) (p : Option PostedFields) (e : HostSet) :
    (createRecord u o m p e s).occ u ≠ none := by
  obtain ⟨hentered, -⟩ := entersPending_createRecord s u o m p e
  obtain ⟨-, hr⟩ | ⟨-, hr⟩ := hentered <;> simp [State.occ, hr]

theorem createRecord_occ_ne {u v : Tag} (o : Origin) (m : Nat) (p : Option PostedFields) (e : HostSet) (hv : v ≠ u) :
    (createRecord u o m p e s).occ v = s.occ v := by
  obtain ⟨-, -, -, hothers⟩ := entersPending_createRecord s u o m p e
  rw [State.occ, hothers v hv, State.occ]

/-! ### The grant order -/

theorem mem_starvedOrigins_line (n : LineId) : .line n ∈ s.starvedOrigins ↔ StarvedLine s n := by
  simp [State.starvedOrigins, lineIds, StarvedLine, Option.isSome_iff_ne_none, and_comm]

theorem mem_starvedOrigins_group (g : GroupId) : .group g ∈ s.starvedOrigins ↔ (s.group g).starved = true := by
  simp [State.starvedOrigins, groupIds]

theorem not_mem_starvedOrigins_posted (n : PostedId) : .posted n ∉ s.starvedOrigins := by
  simp [State.starvedOrigins]

/-- The starved origins stand in ascending origin number. -/
theorem starvedOrigins_sorted : s.starvedOrigins.Pairwise (fun a b => a.number < b.number) := by
  unfold State.starvedOrigins
  rw [List.pairwise_append, List.pairwise_map, List.pairwise_map]
  refine ⟨((List.pairwise_lt_finRange 48).filter _).imp fun h => h,
    ((List.pairwise_lt_finRange 8).filter _).imp fun {a b} h => ?_, ?_⟩
  · simpa [Origin.number] using h
  · simp only [List.mem_map]
    rintro a ⟨n, -, rfl⟩ b ⟨g, -, rfl⟩
    simp only [Origin.number]
    omega

theorem nil_of_starvedOrigins_iff : s.starvedOrigins = [] ↔ NoneStarved s := by
  rw [List.eq_nil_iff_forall_not_mem]
  constructor
  · intro h
    refine ⟨fun n hn => ?_, fun g => ?_⟩
    · by_contra hstarved
      exact h _ ((mem_starvedOrigins_line s n).mpr ⟨hn, hstarved⟩)
    · simpa using mt (mem_starvedOrigins_group s g).mpr (h _)
  · rintro ⟨hlines, hgroups⟩ o ho
    cases o with
    | line n =>
      obtain ⟨hgroup, hstarved⟩ := (mem_starvedOrigins_line s n).mp ho
      exact hstarved (hlines n hgroup)
    | posted n => exact not_mem_starvedOrigins_posted s n ho
    | group g => simpa [hgroups g] using (mem_starvedOrigins_group s g).mp ho

theorem grantChoice_eq_none_iff : s.grantChoice = none ↔ NoneStarved s := by
  rw [← nil_of_starvedOrigins_iff, State.grantChoice, List.findSome?_eq_none_iff]
  constructor
  · intro h
    rw [List.eq_nil_iff_forall_not_mem]
    intro o ho
    simpa using List.find?_eq_none.mp (h (s.termsOf o).level (List.mem_finRange _)) o ho
  · intro h l _
    rw [h]; rfl

/-- The choice is a starved origin, and comes before every other in the order of R43. -/
theorem grantChoice_first {s : State} {o : Origin} (h : s.grantChoice = some o) :
    o ∈ s.starvedOrigins ∧ ∀ o' ∈ s.starvedOrigins, (s.termsOf o).level < (s.termsOf o').level ∨
      ((s.termsOf o).level = (s.termsOf o').level ∧ o.number ≤ o'.number) := by
  obtain ⟨lower, l, upper, hsplit, hfound, hnone⟩ := List.findSome?_eq_some_iff.mp h
  obtain ⟨hlevel, before, after, hlist, hbefore⟩ := List.find?_eq_some_iff_append.mp hfound
  have hl : (s.termsOf o).level = l := by simpa using hlevel
  have hmem : o ∈ s.starvedOrigins := hlist ▸ by simp
  refine ⟨hmem, fun o' ho' => ?_⟩
  have hlow : ¬ (s.termsOf o').level < l := by
    intro hlt
    have hsorted : levels.Pairwise (· < ·) := List.pairwise_lt_finRange 4
    have hin : (s.termsOf o').level ∈ lower := by
      have hmem' : (s.termsOf o').level ∈ lower ++ l :: upper := hsplit ▸ List.mem_finRange _
      rw [hsplit, List.pairwise_append, List.pairwise_cons] at hsorted
      obtain ⟨-, ⟨hupper, -⟩, -⟩ := hsorted
      rw [List.mem_append, List.mem_cons] at hmem'
      obtain hin | heq | hin := hmem'
      · exact hin
      · exact absurd heq hlt.ne
      · exact absurd hlt (lt_asymm (hupper _ hin))
    simpa using List.find?_eq_none.mp (hnone _ hin) o' ho'
  rw [hl]
  obtain hlt | heq := lt_or_eq_of_le (not_lt.mp hlow)
  · exact .inl hlt
  · refine .inr ⟨heq, ?_⟩
    have hsorted := starvedOrigins_sorted s
    rw [hlist, List.pairwise_append, List.pairwise_cons] at hsorted
    rw [hlist, List.mem_append, List.mem_cons] at ho'
    obtain hin | rfl | hin := ho'
    · exact absurd heq.symm (by simpa using hbefore o' hin)
    · exact le_rfl
    · exact (hsorted.2.1.1 o' hin).le

theorem firstStarvedLine_of_grantChoice {s : State} {n : LineId} (h : s.grantChoice = some (.line n)) :
    FirstStarvedLine s n := by
  obtain ⟨hmem, hfirst⟩ := grantChoice_first h
  refine ⟨(mem_starvedOrigins_line s n).mp hmem, fun m hm => ?_, fun g hg => ?_⟩
  · obtain hlt | ⟨heq, hle⟩ := hfirst _ ((mem_starvedOrigins_line s m).mpr hm)
    · exact .inl hlt
    · exact .inr ⟨heq, hle⟩
  · obtain hlt | ⟨heq, -⟩ := hfirst _ ((mem_starvedOrigins_group s g).mpr hg)
    · exact hlt.le
    · exact heq.le

theorem firstStarvedGroup_of_grantChoice {s : State} {k : GroupId} (h : s.grantChoice = some (.group k)) :
    FirstStarvedGroup s k := by
  obtain ⟨hmem, hfirst⟩ := grantChoice_first h
  refine ⟨(mem_starvedOrigins_group s k).mp hmem, fun m hm => ?_, fun g hg => ?_⟩
  · obtain hlt | ⟨-, hle⟩ := hfirst _ ((mem_starvedOrigins_line s m).mpr hm)
    · exact hlt
    · simp only [Origin.number] at hle
      omega
  · obtain hlt | ⟨heq, hle⟩ := hfirst _ ((mem_starvedOrigins_group s g).mpr hg)
    · exact .inl hlt
    · exact .inr ⟨heq, by simpa [Origin.number] using hle⟩

theorem FirstStarvedLine.unique {s : State} {n m : LineId} (hn : FirstStarvedLine s n) (hm : FirstStarvedLine s m) :
    n = m := by
  obtain ⟨hsn, hfn, -⟩ := hn
  obtain ⟨hsm, hfm, -⟩ := hm
  obtain h | ⟨heq, h⟩ := hfn m hsm
  · obtain h' | ⟨h', -⟩ := hfm n hsn
    · exact absurd h (lt_asymm h')
    · exact absurd h' h.ne'
  · obtain h' | ⟨-, h'⟩ := hfm n hsn
    · exact absurd heq h'.ne'
    · exact le_antisymm h h'

theorem FirstStarvedGroup.unique {s : State} {g k : GroupId} (hg : FirstStarvedGroup s g)
    (hk : FirstStarvedGroup s k) : g = k := by
  obtain ⟨hsg, -, hfg⟩ := hg
  obtain ⟨hsk, -, hfk⟩ := hk
  obtain h | ⟨heq, h⟩ := hfg k hsk
  · obtain h' | ⟨h', -⟩ := hfk g hsg
    · exact absurd h (lt_asymm h')
    · exact absurd h' h.ne'
  · obtain h' | ⟨-, h'⟩ := hfk g hsg
    · exact absurd heq h'.ne'
    · exact le_antisymm h h'

theorem FirstStarvedLine.not_group {s : State} {n : LineId} {k : GroupId} (hn : FirstStarvedLine s n) :
    ¬ FirstStarvedGroup s k := by
  rintro ⟨hsk, hfk, -⟩
  obtain ⟨hsn, -, hfn⟩ := hn
  exact absurd (hfk n hsn) (not_lt.mpr (hfn k hsk))

/-- The grant choice is the first starved line source, the first starved group, or none (R43). -/
theorem grantChoice_cases :
    (s.grantChoice = none ∧ NoneStarved s) ∨
    (∃ n, s.grantChoice = some (.line n) ∧ FirstStarvedLine s n) ∨
    (∃ k, s.grantChoice = some (.group k) ∧ FirstStarvedGroup s k) := by
  cases h : s.grantChoice with
  | none => exact .inl ⟨rfl, (grantChoice_eq_none_iff s).mp h⟩
  | some o =>
    cases o with
    | line n => exact .inr (.inl ⟨n, rfl, firstStarvedLine_of_grantChoice h⟩)
    | posted n => exact absurd (grantChoice_first h).1 (not_mem_starvedOrigins_posted s n)
    | group k => exact .inr (.inr ⟨k, rfl, firstStarvedGroup_of_grantChoice h⟩)

theorem FirstStarvedLine.not_noneStarved {s : State} {n : LineId} (hn : FirstStarvedLine s n) : ¬ NoneStarved s :=
  fun h => hn.1.2 (h.1 n hn.1.1)

theorem FirstStarvedGroup.not_noneStarved {s : State} {k : GroupId} (hk : FirstStarvedGroup s k) : ¬ NoneStarved s :=
  fun h => by simpa [h.2 k] using hk.1

end Sys2Proof.Machine
end

section
/-! No record is FREE while an origin is starved (O58): a tag is freed and granted in one, and a mark is set only where
no tag is FREE. -/

namespace Sys2Proof.Machine

variable {s t : State}

/-! ### Updates that set no mark and free no record -/

/-- No mark is set, no record is freed, and the group fields stay. -/
structure NothingFreed (s t : State) : Prop where
  group : ∀ n, (t.line n).desc.group = (s.line n).desc.group
  lineMark : ∀ n, (t.line n).starved ≠ none → (s.line n).starved ≠ none
  groupMark : ∀ g, (t.group g).starved = true → (s.group g).starved = true
  live : ∀ u, t.occ u = none → s.occ u = none

/-- A mark is set, that of line source `skip` not counted. -/
def MarkBeside (skip : Option LineId) (s : State) : Prop :=
  (∃ n, some n ≠ skip ∧ (s.line n).starved ≠ none) ∨ ∃ g, (s.group g).starved = true

/-- As the invariant, but for the mark of line source `skip`, which the group field of a new descriptor may
contradict (R165). -/
def NoneFreeBut (skip : Option LineId) (s : State) : Prop :=
  (∀ n, some n ≠ skip → (s.line n).desc.group ≠ none → (s.line n).starved = none) ∧
    (MarkBeside skip s → ∀ u, s.occ u ≠ none)

theorem noneFreeBut_none : NoneFreeBut none s ↔ NoneFreeWhileStarved s := by
  simp [NoneFreeBut, MarkBeside, NoneFreeWhileStarved]

theorem NothingFreed.markBeside {skip : Option LineId} (h : NothingFreed s t) (ht : MarkBeside skip t) :
    MarkBeside skip s := by
  obtain ⟨n, hn, hmark⟩ | ⟨g, hg⟩ := ht
  · exact .inl ⟨n, hn, h.lineMark n hmark⟩
  · exact .inr ⟨g, h.groupMark g hg⟩

theorem NothingFreed.keepsBut {skip : Option LineId} (h : NothingFreed s t) (hs : NoneFreeBut skip s) :
    NoneFreeBut skip t := by
  obtain ⟨hgrouped, hfull⟩ := hs
  refine ⟨fun n hskip hn => ?_, fun hstarved u hu => hfull (h.markBeside hstarved) u (h.live u hu)⟩
  by_contra hmark
  exact h.lineMark n hmark (hgrouped n hskip (h.group n ▸ hn))

theorem NothingFreed.keeps (h : NothingFreed s t) (hs : NoneFreeWhileStarved s) : NoneFreeWhileStarved t :=
  noneFreeBut_none.mp (h.keepsBut (noneFreeBut_none.mpr hs))

/-- An update of the records alone. -/
theorem NothingFreed.of_tables (hl : t.lineSources = s.lineSources) (hg : t.groups = s.groups)
    (hlive : ∀ u, t.occ u = none → s.occ u = none) : NothingFreed s t where
  group n := by rw [State.line, hl, State.line]
  lineMark n := by rw [State.line, hl, State.line]; exact id
  groupMark g := by rw [State.group, hg, State.group]; exact id
  live := hlive

theorem nothingFreed_setRecord (u : Tag) (r : Record) (hr : r.occ ≠ none) : NothingFreed s (s.setRecord u r) :=
  .of_tables rfl rfl fun v hv => by
    by_cases h : v = u
    · subst h; simp [hr] at hv
    · simpa [h] using hv

theorem nothingFreed_setOcc (u : Tag) (c : Occurrence) : NothingFreed s (s.setOcc u c) :=
  nothingFreed_setRecord u _ (Option.some_ne_none c)

theorem nothingFreed_setTimer (u : Tag) (x : Timer) : NothingFreed s (s.setTimer u x) :=
  .of_tables rfl rfl fun v hv => by simpa using hv

theorem nothingFreed_openRecord (u : Tag) : NothingFreed s (openRecord u s) := by
  unfold openRecord
  split
  · split
    · exact nothingFreed_setRecord u _ (Option.some_ne_none _)
    · exact .of_tables rfl rfl fun _ => id
  · exact .of_tables rfl rfl fun _ => id

theorem nothingFreed_setLine (n : LineId) (x : LineSource) (hx : x.desc.group = (s.line n).desc.group)
    (hmark : x.starved ≠ none → (s.line n).starved ≠ none) : NothingFreed s (s.setLine n x) where
  group m := by
    by_cases h : m = n
    · subst h; simpa using hx
    · simp [h]
  lineMark m := by
    by_cases h : m = n
    · subst h; simpa using hmark
    · simp [h]
  groupMark _ := id
  live _ := id

theorem nothingFreed_clearMark (n : LineId) : NothingFreed s (setLineStarved n none s) :=
  nothingFreed_setLine n { s.line n with starved := none } rfl fun h => absurd rfl h

theorem nothingFreed_setGroup (g : GroupId) (x : Group) (hmark : x.starved = true → (s.group g).starved = true) :
    NothingFreed s (s.setGroup g x) where
  group _ := rfl
  lineMark _ := id
  groupMark k := by
    by_cases h : k = g
    · subst h; simpa using hmark
    · simp [h]
  live _ := id

theorem nothingFreed_advanceSeq (o : Origin) : NothingFreed s (s.advanceSeq o) := by
  cases o
  · exact nothingFreed_setLine _ _ rfl id
  · exact .of_tables rfl rfl fun _ => id
  · exact nothingFreed_setGroup _ _ id

theorem nothingFreed_enterPending (u : Tag) (c : Occurrence) : NothingFreed s (enterPending u c s) :=
  .of_tables rfl rfl fun v hv => by
    by_cases h : v = u
    · subst h
      obtain ⟨p, -, he⟩ := enterPending_occ_same s v c
      simp [he] at hv
    · rwa [enterPending_occ_ne s c h] at hv

theorem nothingFreed_createRecord (u : Tag) (o : Origin) (m : Nat) (p : Option PostedFields) (e : HostSet) :
    NothingFreed s (createRecord u o m p e s) where
  group n := by rw [createRecord_line]; split <;> rfl
  lineMark n := by rw [createRecord_line]; split <;> exact id
  groupMark g := by rw [createRecord_group]; split <;> exact id
  live v hv := by
    by_cases h : v = u
    · subst h; exact absurd hv (createRecord_occ_same s v o m p e)
    · rwa [createRecord_occ_ne s o m p e h] at hv

/-! ### Marks and freeings -/

theorem poolClosed_noneFree : PoolClosed NoneFreeWhileStarved where
  create o m p e _ hs := (nothingFreed_createRecord _ o m p e).keeps hs
  merge k _ hs := by
    unfold mergeInto
    split
    · exact (nothingFreed_setOcc _ _).keeps hs
    · exact hs
  again hs := by
    unfold setAgain
    split
    · exact (nothingFreed_setOcc _ _).keeps hs
    · exact hs
  group {s g} x _ hmark hs := by
    by_cases hnew : x.starved = true → (s.group g).starved = true
    · exact (nothingFreed_setGroup g x hnew).keeps hs
    · obtain ⟨hx, hold⟩ := Classical.not_imp.mp hnew
      exact ⟨hs.1, fun _ => (s.freeTag_eq_none_iff).mp ((hmark hx).resolve_left hold)⟩
  mark {s n} x hmark hs := by
    by_cases hnew : x ≠ none → (s.line n).starved ≠ none
    · exact (nothingFreed_setLine n { s.line n with starved := x } rfl hnew).keeps hs
    · obtain ⟨hx, hold⟩ := Classical.not_imp.mp hnew
      obtain ⟨hgroup, hfull⟩ := (hmark hx).resolve_left hold
      refine ⟨fun m hm => ?_, fun _ => (s.freeTag_eq_none_iff).mp hfull⟩
      by_cases h : m = n
      · subst h
        simp [setLineStarved, hgroup] at hm
      · simpa [setLineStarved, h] using hs.1 m (by simpa [setLineStarved, h] using hm)

theorem nothingFreed_clearStarved (o : Origin) : NothingFreed s (clearStarved o s) := by
  cases o
  · exact nothingFreed_clearMark _
  · exact .of_tables rfl rfl fun _ => id
  · exact nothingFreed_setGroup _ _ fun h => absurd h Bool.false_ne_true

/-- A freed tag is granted where an origin is starved (R41 step 4, R43). -/
theorem noneFreeBut_grantCheck {skip : Option LineId} {u : Tag}
    (hskip : ∀ n, some n = skip → (s.line n).desc.group ≠ none)
    (hgrouped : ∀ n, some n ≠ skip → (s.line n).desc.group ≠ none → (s.line n).starved = none)
    (hfull : MarkBeside skip s → ∀ v, v ≠ u → s.occ v ≠ none) : NoneFreeBut skip (grantCheck u s) := by
  unfold grantCheck
  split
  case h_1 o ho =>
    have hmarked : MarkBeside skip s := by
      have hmem := (grantChoice_first ho).1
      cases o with
      | line n =>
        obtain ⟨hgroup, hmark⟩ := (mem_starvedOrigins_line s n).mp hmem
        exact .inl ⟨n, fun h => hskip n h hgroup, hmark⟩
      | posted n => exact absurd hmem (not_mem_starvedOrigins_posted s n)
      | group g => exact .inr ⟨g, (mem_starvedOrigins_group s g).mp hmem⟩
    have hn := nothingFreed_createRecord (s := s) u o (s.grantMerge o) none 0
    refine (nothingFreed_clearStarved o).keepsBut ⟨fun n hskip hgroup => ?_, fun _ v => ?_⟩
    · by_contra hmark
      exact hn.lineMark n hmark (hgrouped n hskip (hn.group n ▸ hgroup))
    · by_cases hv : v = u
      · subst hv; exact createRecord_occ_same s v o _ none 0
      · exact fun h => hfull hmarked v hv (hn.live v h)
  case h_2 hnone =>
    obtain ⟨hlines, hgroups⟩ := (grantChoice_eq_none_iff s).mp hnone
    refine ⟨hgrouped, fun hstarved => ?_⟩
    obtain ⟨n, hn, hmark⟩ | ⟨g, hg⟩ := hstarved
    · by_cases hgroup : (s.line n).desc.group = none
      · exact absurd (hlines n hgroup) hmark
      · exact absurd (hgrouped n hn hgroup) hmark
    · simp [hgroups g] at hg

theorem vacate_group_starved (s : State) (u : Tag) (c : Occurrence) (g : GroupId) :
    ((vacate u c s).group g).starved = (s.group g).starved := by
  rw [vacate_group]
  split <;> rfl

theorem noneFreeBut_freeRecord {skip : Option LineId} (hskip : ∀ n, some n = skip → (s.line n).desc.group ≠ none)
    (hs : NoneFreeBut skip s) (u : Tag) : NoneFreeBut skip (freeRecord u s) := by
  cases hc : s.occ u with
  | none => simpa [freeRecord, hc] using hs
  | some c =>
    obtain ⟨hgrouped, hfull⟩ := hs
    rw [freeRecord_eq s u c hc]
    refine noneFreeBut_grantCheck (fun n => by simpa using hskip n) (fun n => by simpa using hgrouped n)
      fun hstarved v hv => ?_
    rw [vacate_occ_ne s u v c hv]
    exact hfull (by simpa [MarkBeside, vacate_group_starved] using hstarved) v

theorem noneFree_freeRecord (hs : NoneFreeWhileStarved s) (u : Tag) : NoneFreeWhileStarved (freeRecord u s) :=
  noneFreeBut_none.mp (noneFreeBut_freeRecord (fun n h => absurd h (Option.some_ne_none n)) (noneFreeBut_none.mpr hs) u)

theorem returnClosed_noneFree (u : Tag) : ReturnClosed u NoneFreeWhileStarved NoneFreeWhileStarved where
  pool := poolClosed_noneFree
  notice h n hs := by
    obtain ⟨-, he⟩ | ⟨-, he⟩ := place_cases _ h n <;> rw [he]
    · exact hs
    · exact hs
  timer x hs := (nothingFreed_setTimer u x).keeps hs
  group x _ hx hs := (nothingFreed_setGroup _ x (by rw [hx]; exact id)).keeps hs
  mark n hs := poolClosed_noneFree.mark none (fun h => absurd rfl h) hs
  merge _ _ _ _ _ _ hs := (nothingFreed_setOcc _ _).keeps hs
  opens _ hs := (nothingFreed_openRecord _).keeps hs
  free _ _ hs := noneFree_freeRecord hs u
  enter _ _ _ _ hs := (nothingFreed_enterPending _ _).keeps hs

theorem noneFree_returnRecord (hs : NoneFreeWhileStarved s) (u : Tag) (h : HostId) :
    NoneFreeWhileStarved (returnRecord u h s).1 := by
  by_cases hclaimed : ∃ c, s.occ u = some c ∧ c.phase.isClaimed = true
  · obtain ⟨c, hc, hclaimed⟩ := hclaimed
    exact (returnClosed_noneFree u).returnRecord hs hc hclaimed h
  · rw [returnRecord_unclaimed s u h fun c hc => by simpa using fun hp => hclaimed ⟨c, hc, hp⟩]
    exact hs

theorem noneFree_revoke (hs : NoneFreeWhileStarved s) (h : HostId) : NoneFreeWhileStarved (revoke h s) := by
  unfold revoke
  generalize (s.host h).stack = l
  induction l generalizing s with
  | nil => exact hs
  | cons e l ih => exact ih (noneFree_returnRecord (s := removeEntry h e.tag s) hs e.tag h)

/-! ### The descriptor of a line source -/

theorem leaveCollect_line (n m : LineId) (g : Option GroupId) (s : State) :
    (leaveCollect n g s).line m = s.line m := by
  cases g <;> rfl

theorem nothingFreed_leaveCollect (n : LineId) (g : Option GroupId) : NothingFreed s (leaveCollect n g s) := by
  cases g with
  | none => exact .of_tables rfl rfl fun _ => id
  | some g =>
    refine nothingFreed_setGroup _ _ fun h => ?_
    dsimp only at h
    split at h
    · cases h
    · exact h

/-- With the mark of the skipped source cleared nothing is skipped. -/
theorem NoneFreeBut.cleared {n : LineId} (hs : NoneFreeBut (some n) s) :
    NoneFreeWhileStarved (setLineStarved n none s) := by
  have hkept : NoneFreeBut (some n) (setLineStarved n none s) :=
    (nothingFreed_clearMark n).keepsBut hs
  obtain ⟨hgrouped, hfull⟩ := hkept
  refine ⟨fun m hm => ?_, fun hstarved => hfull ?_⟩
  · by_cases h : m = n
    · subst h; simp [setLineStarved]
    · exact hgrouped m (by simpa using h) hm
  · obtain ⟨m, hm⟩ | hg := hstarved
    · refine .inl ⟨m, ?_, hm⟩
      intro h
      cases h
      simp [setLineStarved] at hm
    · exact .inr hg

theorem noneFreeBut_withdraw {n : LineId} (hgroup : (s.line n).desc.group ≠ none) (hs : NoneFreeBut (some n) s)
    (o : Origin) : NoneFreeBut (some n) (withdraw o s) := by
  unfold withdraw
  split
  · exact noneFreeBut_freeRecord (fun m h => by cases h; exact hgroup) hs _
  · exact hs

/-- A source that is put into a group, whatever its mark: the mark goes with the membership (R20, R108, R165). -/
theorem noneFree_commitMembership_grouped {n : LineId} {old new : SourceDescriptor}
    (hdesc : (s.line n).desc = new) (hnew : new.group ≠ none) (hchanged : old.group ≠ new.group)
    (hs : NoneFreeBut (some n) s) : NoneFreeWhileStarved (commitMembership n old new s) := by
  have hleave : ∀ g m, NoneFreeBut (some n) m → NoneFreeBut (some n) (leaveCollect n g m) := fun g m hm =>
    (nothingFreed_leaveCollect n g).keepsBut hm
  have hmark : ∀ m, NoneFreeBut (some n) m → NoneFreeBut (some n) (setLineStarved n none m) := fun m hm =>
    (nothingFreed_clearMark n).keepsBut hm
  have hdisabled : NoneFreeBut (some n) (if old.enabled ∧ ¬ new.enabled then
      leaveCollect n old.group (setLineStarved n none (withdraw (.line n) s)) else s) := by
    split
    · exact hleave _ _ (hmark _ (noneFreeBut_withdraw (hdesc ▸ hnew) hs _))
    · exact hs
  unfold commitMembership
  dsimp only
  rw [if_pos hchanged, if_pos (Option.isSome_iff_ne_none.mpr hnew)]
  exact (hleave _ _ hdisabled).cleared

theorem noneFree_commitLine (hs : NoneFreeWhileStarved s) (n : LineId) (new : SourceDescriptor) :
    NoneFreeWhileStarved (commitMembership n (s.line n).desc new (s.setLine n { s.line n with desc := new })) := by
  have hskip : NoneFreeBut (some n) (s.setLine n { s.line n with desc := new }) := by
    refine ⟨fun m hm => ?_, fun hstarved => hs.2 ?_⟩
    · have hne : m ≠ n := by simpa using hm
      simpa [hne] using hs.1 m
    · obtain ⟨m, hm, hmark⟩ | hg := hstarved
      · have hne : m ≠ n := by simpa using hm
        exact .inl ⟨m, by simpa [hne] using hmark⟩
      · exact .inr hg
  by_cases hcase : new.group ≠ none ∧ (s.line n).desc.group ≠ new.group
  · exact noneFree_commitMembership_grouped (by simp) hcase.1 hcase.2 hskip
  · refine poolClosed_noneFree.commitMembership (fun _ u _ hm => noneFree_freeRecord hm u) n _ new ?_
    have hgrouped : new.group ≠ none → (s.line n).starved = none := fun hnew =>
      hs.1 n (by rw [not_not.mp fun h => hcase ⟨hnew, h⟩]; exact hnew)
    refine ⟨fun m hm => ?_, fun hstarved => hs.2 ?_⟩
    · by_cases h : m = n
      · subst h; simpa using hgrouped (by simpa using hm)
      · simpa [h] using hs.1 m (by simpa [h] using hm)
    · obtain ⟨m, hmark⟩ | hg := hstarved
      · refine .inl ⟨m, ?_⟩
        by_cases h : m = n
        · subst h; simpa using hmark
        · simpa [h] using hmark
      · exact .inr hg

/-! ### Events, requests and the step -/

theorem nothingFreed_moveLevel (o : Origin) (l : Level) : NothingFreed s (moveLevel o l s) := by
  unfold moveLevel
  split
  case h_1 u _ =>
    split
    case h_1 c _ =>
      exact .of_tables rfl rfl fun v hv => (nothingFreed_setOcc (s := leaveList u c.level s) u _).live v hv
    case h_2 => exact .of_tables rfl rfl fun _ => id
  case h_2 => exact .of_tables rfl rfl fun _ => id

theorem NothingFreed.of_same_tables {s t : State} (hl : t.lineSources = s.lineSources) (hg : t.groups = s.groups)
    (hr : t.records = s.records) : NothingFreed s t :=
  .of_tables hl hg fun u hu => by rwa [State.occ, State.record, hr] at hu

theorem requestClosed_noneFree : RequestClosed NoneFreeWhileStarved where
  session hs _ := hs
  commitPolicy _ hs := hs
  pool := poolClosed_noneFree
  rest _ _ hl _ hg hr _ _ _ _ _ hs := (NothingFreed.of_same_tables hl hg hr).keeps hs
  context _ _ _ hs := hs
  filter {s n} f hs := (nothingFreed_setLine n { s.line n with filter := f } rfl id).keeps hs
  opens hs := (nothingFreed_openRecord _).keeps hs
  move o l hs := (nothingFreed_moveLevel o l).keeps hs
  withdraw _ hs := noneFree_freeRecord hs _
  claim {s h u c} _ _ hs := by
    have hclaimed := (nothingFreed_setRecord (s := leaveList u c.level s) u
      { epoch := (s.record u).epoch + 1, timer := .running (s.leaseOf c.origin).toNat
        occ := some { c with phase := .claimed h 0 (s.snapshotOf c.origin) } } (Option.some_ne_none _)).keeps hs
    exact hclaimed
  extend _ _ _ hs := (nothingFreed_setRecord _ _ (Option.some_ne_none _)).keeps hs
  free {s h u c} _ hs := noneFree_freeRecord (s := removeEntry h u s) hs u
  rearm {s h u c} _ hs :=
    (nothingFreed_enterPending _ _).keeps ((nothingFreed_advanceSeq (s := removeEntry h u s) c.origin).keeps hs)
  back {s h u c} _ hs := noneFree_returnRecord (s := removeEntry h u s) hs u h
  revoke h hs := noneFree_revoke hs h
  commitLine n new hs := noneFree_commitLine hs n new
  commitPosted _ _ hs := hs
  commitGroup {s} g new hs := (nothingFreed_setGroup g { s.group g with desc := new } id).keeps hs

theorem noneFree_resetBlocks (s : State) : NoneFreeWhileStarved (resetBlocks s) := by
  simp [NoneFreeWhileStarved, LineSource.reset, Group.reset]

theorem line_sample (levels : BitVec 48) (s : State) (n : LineId) :
    (sampleLines levels (countTimers s)).line n = (s.line n).sample (levels.getLsbD n.val) :=
  Table.look_mapIdx _ _ n

/-- A sample moves the filter of a line alone. -/
theorem LineSource.sample_fields (x : LineSource) (level : Bool) :
    (x.sample level).desc = x.desc ∧ (x.sample level).seq = x.seq ∧ (x.sample level).starved = x.starved := by
  unfold LineSource.sample
  split <;> exact ⟨rfl, rfl, rfl⟩

theorem nothingFreed_sample (levels : BitVec 48) : NothingFreed s (sampleLines levels (countTimers s)) where
  group n := by rw [line_sample, (LineSource.sample_fields _ _).1]
  lineMark n := by rw [line_sample, (LineSource.sample_fields _ _).2.2]; exact id
  groupMark _ := id
  live u := by rw [State.occ, record_sample]; exact id

/-- Settles O58: events and requests free no record that is not granted, and set no mark while a tag is FREE. -/
theorem starvationLeavesNothingFree : Obligations.StarvationLeavesNothingFree := by
  intro s t hs hstep
  exact (requestClosed_noneFree.stepClosed (fun s t hcore hs => by
      obtain ⟨hl, -, hg, hr, -⟩ := State.tables_of_core hcore
      exact (NothingFreed.of_same_tables hl hg hr).keeps hs) noneFree_resetBlocks
    fun levels _ hs => (nothingFreed_sample levels).keeps hs).step hs hstep

end Sys2Proof.Machine
end

section
/-! The service stacks (O55): an entry stands in a stack exactly while its record is held by that host at that level;
one record on its way out of a stack is left out of account. -/

namespace Sys2Proof.Machine

variable {s t : State} {u : Tag}

/-! ### Who holds a record -/

/-- The holder and the level of a CLAIMED record. -/
def Occurrence.holding (c : Occurrence) : Option (HostId × Level) :=
  match c.phase with
  | .claimed h _ _ => some (h, c.level)
  | _ => none

/-- The holder and the level of record `u`, none unless it is CLAIMED. -/
def State.holding (s : State) (u : Tag) : Option (HostId × Level) := (s.occ u).bind Occurrence.holding

/-- The stacks hold exactly the CLAIMED records at their levels, which fall strictly towards the top. -/
def HoldingExact (s : State) : Prop :=
  (∀ h e, e ∈ (s.host h).stack ↔ s.holding e.tag = some (h, e.level)) ∧
    ∀ h, (s.host h).stack.Pairwise (fun upper lower => upper.level < lower.level)

/-- The same of all records but `u`, which stands in no stack. -/
def HoldingExactBut (u : Tag) (s : State) : Prop :=
  (∀ h e, e ∈ (s.host h).stack ↔ e.tag ≠ u ∧ s.holding e.tag = some (h, e.level)) ∧
    ∀ h, (s.host h).stack.Pairwise (fun upper lower => upper.level < lower.level)

theorem Occurrence.holding_eq_some_iff (c : Occurrence) (h : HostId) (l : Level) :
    c.holding = some (h, l) ↔ heldBy h c = true ∧ c.level = l := by
  cases hp : c.phase <;> simp [Occurrence.holding, heldBy, hp]

theorem State.holding_eq_some_iff (s : State) (u : Tag) (h : HostId) (l : Level) :
    s.holding u = some (h, l) ↔ ∃ c, s.occ u = some c ∧ heldBy h c = true ∧ c.level = l := by
  simp only [State.holding, Option.bind_eq_some_iff, Occurrence.holding_eq_some_iff]

theorem stacksExact_iff : StacksExact s ↔ HoldingExact s := by
  have hheld : ∀ u h, (s.occ u).any (heldBy h) = true ↔ ∃ l, s.holding u = some (h, l) := by
    intro u h
    simp only [State.holding_eq_some_iff, Option.any_eq_true]
    exact ⟨fun ⟨c, hc, hh⟩ => ⟨c.level, c, hc, hh, rfl⟩, fun ⟨_, c, hc, hh, _⟩ => ⟨c, hc, hh⟩⟩
  constructor
  · rintro ⟨hmem, hlevel, hsorted⟩
    refine ⟨fun h e => ⟨fun he => ?_, fun he => ?_⟩, hsorted⟩
    · obtain ⟨l, hl⟩ := (hheld e.tag h).mp ((hmem h e.tag).mp ⟨e, he, rfl⟩)
      obtain ⟨c, hc, hh, -⟩ := (State.holding_eq_some_iff s e.tag h l).mp hl
      refine (State.holding_eq_some_iff s e.tag h e.level).mpr ⟨c, hc, hh, ?_⟩
      simpa [hc] using hlevel h e he
    · obtain ⟨e', he', htag⟩ := (hmem h e.tag).mpr ((hheld e.tag h).mpr ⟨_, he⟩)
      obtain ⟨c, hc, -, hl⟩ := (State.holding_eq_some_iff s e.tag h e.level).mp he
      have hlevel' : c.level = e'.level := by simpa [htag, hc] using hlevel h e' he'
      have : e' = e := by cases e; cases e'; simp_all
      exact this ▸ he'
  · rintro ⟨hmem, hsorted⟩
    refine ⟨fun h u => ⟨?_, fun hu => ?_⟩, fun h e he => ?_, hsorted⟩
    · rintro ⟨e, he, rfl⟩
      exact (hheld e.tag h).mpr ⟨_, (hmem h e).mp he⟩
    · obtain ⟨l, hl⟩ := (hheld u h).mp hu
      exact ⟨⟨u, l⟩, (hmem h ⟨u, l⟩).mpr hl, rfl⟩
    · obtain ⟨c, hc, -, hl⟩ := (State.holding_eq_some_iff s e.tag h e.level).mp ((hmem h e).mp he)
      simp [hc, hl]

theorem HoldingExact.of_same (hs : HoldingExact s) (hstack : ∀ h, (t.host h).stack = (s.host h).stack)
    (hholding : ∀ v, t.holding v = s.holding v) : HoldingExact t := by
  simpa only [HoldingExact, hstack, hholding] using hs

theorem HoldingExactBut.of_same (hs : HoldingExactBut u s) (hstack : ∀ h, (t.host h).stack = (s.host h).stack)
    (hholding : ∀ v, v ≠ u → t.holding v = s.holding v) : HoldingExactBut u t := by
  obtain ⟨hmem, hsorted⟩ := hs
  refine ⟨fun h e => ?_, fun h => hstack h ▸ hsorted h⟩
  rw [hstack, hmem h e]
  exact and_congr_right fun he => by rw [hholding e.tag he]

/-- A record that nobody holds completes the stacks. -/
theorem HoldingExactBut.exact (hs : HoldingExactBut u s) (hu : s.holding u = none) : HoldingExact s := by
  obtain ⟨hmem, hsorted⟩ := hs
  refine ⟨fun h e => ?_, hsorted⟩
  rw [hmem h e, and_iff_right_iff_imp]
  intro he htag
  rw [htag, hu] at he
  cases he

theorem HoldingExact.but (hs : HoldingExact s) (hu : s.holding u = none) : HoldingExactBut u s := by
  obtain ⟨hmem, hsorted⟩ := hs
  refine ⟨fun h e => ?_, hsorted⟩
  rw [hmem h e, iff_and_self]
  intro he htag
  rw [htag, hu] at he
  cases he

/-! ### What each update makes of the holders -/

theorem holding_of_occ {v : Tag} {c : Occurrence} (hc : s.occ v = some c) : s.holding v = c.holding := by
  simp [State.holding, hc]

theorem holding_of_free {v : Tag} (hv : s.occ v = none) : s.holding v = none := by
  simp [State.holding, hv]

theorem Occurrence.holding_of_pending {c : Occurrence} (hp : c.phase.isPending = true) : c.holding = none := by
  cases hc : c.phase <;> simp_all [Occurrence.holding, Phase.isPending]

theorem holding_of_pendingTag {v : Tag} (hv : s.isPendingTag v = true) : s.holding v = none := by
  cases hc : s.occ v with
  | none => exact holding_of_free hc
  | some c => rw [holding_of_occ hc]; exact Occurrence.holding_of_pending ((State.isPendingTag_of_occ hc).symm.trans hv)

theorem holding_congr {v : Tag} (hv : t.occ v = s.occ v) : t.holding v = s.holding v := by
  simp [State.holding, hv]

theorem holding_setRecord_ne {v : Tag} (r : Record) (hv : v ≠ u) : (s.setRecord u r).holding v = s.holding v :=
  holding_congr (by simp [hv])

/-- Fields that keep phase and level keep the holder. -/
theorem holding_setOcc {c d : Occurrence} (hc : s.occ u = some c) (hphase : d.phase = c.phase)
    (hlevel : d.level = c.level) (v : Tag) : (s.setOcc u d).holding v = s.holding v := by
  by_cases hv : v = u
  · subst hv
    have hd : (s.setOcc v d).occ v = some d := State.occ_setOcc_same s v d
    rw [holding_of_occ hd, holding_of_occ hc, Occurrence.holding, Occurrence.holding, hphase, hlevel]
  · exact holding_congr (by simp [hv])

theorem holding_openRecord (v : Tag) : (openRecord u s).holding v = s.holding v := by
  obtain he | ⟨rfl, c, hc, hp, he⟩ := openRecord_record s u v
  · exact holding_congr (by simp [State.occ, he])
  · have hd : (openRecord v s).occ v = some { c with phase := .pendingOpen } := by simp [State.occ, he]
    rw [holding_of_occ hd, holding_of_occ hc, Occurrence.holding_of_pending (c := c) (by simp [hp, Phase.isPending])]
    rfl

theorem holding_enterPending (c : Occurrence) (v : Tag) :
    (enterPending u c s).holding v = if v = u then none else s.holding v := by
  split
  case isTrue hv =>
    subst hv
    obtain ⟨p, hp, he⟩ := enterPending_occ_same s v c
    rw [holding_of_occ he]
    exact Occurrence.holding_of_pending hp
  case isFalse hv => exact holding_congr (enterPending_occ_ne s c hv)

theorem holding_createRecord (o : Origin) (m : Nat) (p : Option PostedFields) (e : HostSet) (v : Tag) :
    (createRecord u o m p e s).holding v = if v = u then none else s.holding v := by
  split
  case isTrue hv =>
    subst hv
    obtain ⟨hentered, -⟩ := entersPending_createRecord s v o m p e
    obtain ⟨-, hr⟩ | ⟨-, hr⟩ := hentered <;> simp [State.holding, State.occ, hr, Occurrence.holding]
  case isFalse hv => exact holding_congr (createRecord_occ_ne s o m p e hv)

theorem host_createRecord (o : Origin) (m : Nat) (p : Option PostedFields) (e : HostSet) (h : HostId) :
    (createRecord u o m p e s).host h = s.host h := by
  rw [State.host, State.hosts_of_pool (createRecord_besidePool s u o m p e), State.host]

/-! ### Events of the pool and returns -/

theorem poolClosed_holding : PoolClosed HoldingExact where
  create {s u} o m p e hfree hs := hs.of_same (fun h => by rw [host_createRecord]) fun v => by
    rw [holding_createRecord]
    split
    case isTrue hv => rw [hv, holding_of_free hfree]
    case isFalse => rfl
  merge k _ hs := by
    unfold mergeInto
    split
    case h_1 c hc => exact hs.of_same (fun _ => rfl) (holding_setOcc (d := { c with merge := _ }) hc rfl rfl)
    case h_2 => exact hs
  again hs := by
    unfold setAgain
    split
    case h_1 c hc => exact hs.of_same (fun _ => rfl) (holding_setOcc (d := { c with again := _ }) hc rfl rfl)
    case h_2 => exact hs
  group _ _ _ hs := hs.of_same (fun _ => rfl) fun _ => rfl
  mark _ _ hs := hs.of_same (fun _ => rfl) fun _ => rfl

/-- A record that stands in no stack is freed. -/
theorem HoldingExactBut.freeRecord {c : Occurrence} (hs : HoldingExactBut u s) (hc : s.occ u = some c) :
    HoldingExact (freeRecord u s) := by
  rw [freeRecord_eq s u c hc]
  refine poolClosed_holding.grantCheck ?_ (vacate_occ_same s u c)
  have hvacated : HoldingExactBut u (vacate u c s) := hs.of_same (fun h => by rw [vacate_host]) fun v hv =>
    holding_congr (vacate_occ_ne s u v c hv)
  exact hvacated.exact (holding_of_free (vacate_occ_same s u c))

/-- A record that stands in no stack enters a PENDING state. -/
theorem HoldingExactBut.enterPending (hs : HoldingExactBut u s) (d : Occurrence) : HoldingExact (enterPending u d s) := by
  have hentered : HoldingExactBut u (Machine.enterPending u d s) := hs.of_same (fun _ => rfl) fun v hv => by
    rw [holding_enterPending, if_neg hv]
  exact hentered.exact (by rw [holding_enterPending, if_pos rfl])

theorem returnClosed_holding (u : Tag) : ReturnClosed u (HoldingExactBut u) HoldingExact where
  pool := poolClosed_holding
  notice {s} h n hs := hs.of_same (fun g => congrArg (fun x => x.2.2.2.2) (place_standing s h g n)) fun v => by
    obtain ⟨-, he⟩ | ⟨-, he⟩ := place_cases s h n <;> rw [he]
    rfl
  timer x hs := hs.of_same (fun _ => rfl) fun v _ => holding_congr (by simp)
  group _ _ _ hs := hs.of_same (fun _ => rfl) fun _ _ => rfl
  mark _ hs := hs.of_same (fun _ => rfl) fun _ _ => rfl
  merge {s v d} m k e _ hd _ hs := hs.of_same (fun _ => rfl) fun w _ =>
    holding_setOcc (d := { d with merge := m, reoffer := k, exclusion := e }) hd rfl rfl w
  opens {s v} _ hs := hs.of_same
    (fun h => by rw [State.host, State.hosts_of_pool (openRecord_besidePool s v), State.host])
    fun w _ => holding_openRecord w
  free hc _ hs := hs.freeRecord hc
  enter _ _ _ _ hs := hs.enterPending _

/-- An entry leaves the stack of its holder where it stands (R72). -/
theorem HoldingExact.removeEntry {h : HostId} {c : Occurrence} (hs : HoldingExact s) (hc : ClaimedBy s h u c) :
    HoldingExactBut u (removeEntry h u s) := by
  obtain ⟨hmem, hsorted⟩ := hs
  have hholding : s.holding u = some (h, c.level) :=
    (State.holding_eq_some_iff s u h c.level).mpr ⟨c, hc.1, hc.2, rfl⟩
  refine ⟨fun g e => ?_, fun g => ?_⟩
  · change _ ↔ e.tag ≠ u ∧ s.holding e.tag = some (g, e.level)
    by_cases hg : g = h
    · subst hg
      simp [Machine.removeEntry, hmem, and_comm]
    · simp only [Machine.removeEntry, State.host_setHost_ne _ _ _ _ hg, hmem g e, iff_and_self]
      intro he htag
      rw [htag, hholding] at he
      exact hg (Prod.mk.inj (Option.some.inj he)).1.symm
  · by_cases hg : g = h
    · subst hg
      simpa [Machine.removeEntry] using (hsorted g).filter _
    · simpa [Machine.removeEntry, hg] using hsorted g

theorem HoldingExact.returnEntry {h : HostId} {c : Occurrence} (hs : HoldingExact s) (hc : ClaimedBy s h u c) :
    HoldingExact (returnRecord u h (Machine.removeEntry h u s)).1 :=
  (returnClosed_holding u).returnRecord (s := Machine.removeEntry h u s) (hs.removeEntry hc) hc.1 hc.isClaimed h

/-! ### Revocation -/

theorem returnRecord_stack (s : State) (u : Tag) (h g : HostId) :
    ((returnRecord u h s).1.host g).stack = (s.host g).stack :=
  congrArg (fun x => x.2.2.2.2) ((returnRecord_keeps s u h).2.2 g)

theorem HoldingExact.claimedBy_of_mem {h : HostId} {e : StackEntry} (hs : HoldingExact s)
    (he : e ∈ (s.host h).stack) : ∃ c, ClaimedBy s h e.tag c ∧ c.level = e.level := by
  obtain ⟨c, hc, hh, hl⟩ := (State.holding_eq_some_iff s e.tag h e.level).mp ((hs.1 h e).mp he)
  exact ⟨c, ⟨hc, hh⟩, hl⟩

/-- No two entries of a stack name the same record. -/
theorem HoldingExact.tag_ne {h : HostId} {e : StackEntry} {rest : List StackEntry} (hs : HoldingExact s)
    (hstack : (s.host h).stack = e :: rest) : ∀ f ∈ rest, f.tag ≠ e.tag := by
  intro f hf htag
  obtain ⟨c, hc, hcl⟩ := hs.claimedBy_of_mem (h := h) (e := e) (by rw [hstack]; exact List.mem_cons_self)
  obtain ⟨d, hd, hdl⟩ := hs.claimedBy_of_mem (h := h) (e := f) (by rw [hstack]; exact List.mem_cons_of_mem _ hf)
  have hcd : c = d := Option.some.inj (hc.1.symm.trans (htag ▸ hd.1))
  have hsorted := hs.2 h
  rw [hstack, List.pairwise_cons] at hsorted
  exact absurd (hsorted.1 f hf) (by rw [← hcl, ← hdl, hcd]; exact lt_irrefl _)

/-- The top entry revoked leaves the entries below it. -/
theorem HoldingExact.revokeEntry_stack {h : HostId} {e : StackEntry} {rest : List StackEntry} (hs : HoldingExact s)
    (hstack : (s.host h).stack = e :: rest) : ((revokeEntry h s e).host h).stack = rest := by
  have hne := hs.tag_ne hstack
  rw [revokeEntry, returnRecord_stack]
  simp only [Machine.removeEntry, State.host_setHost_same, hstack]
  rw [List.filter_cons_of_neg (by simp), List.filter_eq_self]
  simpa using hne

theorem HoldingExact.revokeEntry {h : HostId} {e : StackEntry} (hs : HoldingExact s) (he : e ∈ (s.host h).stack) :
    HoldingExact (revokeEntry h s e) := by
  obtain ⟨c, hc, -⟩ := hs.claimedBy_of_mem he
  exact hs.returnEntry hc

theorem HoldingExact.revoke (hs : HoldingExact s) (h : HostId) : HoldingExact (revoke h s) := by
  unfold Machine.revoke
  generalize hstack : (s.host h).stack = l
  induction l generalizing s with
  | nil => exact hs
  | cons e l ih =>
    have htop : e ∈ (s.host h).stack := by rw [hstack]; exact List.mem_cons_self
    exact ih (hs.revokeEntry htop) (hs.revokeEntry_stack hstack)

/-! ### The claim -/

/-- An offered record is less in level than every entry of the stack it is pushed on (R60, R70). -/
theorem HoldingExact.claimRecord {h : HostId} {c : Occurrence} (hs : HoldingExact s) (hc : s.occ u = some c)
    (hoffer : s.offersTo h c = true) : HoldingExact (claimRecord h u c s) := by
  obtain ⟨hmem, hsorted⟩ := hs
  obtain ⟨-, -, -, -, hrunning, hphase⟩ := (s.offersTo_iff h c).mp hoffer
  have hpending : c.phase.isPending = true := by
    obtain hp | ⟨hp, -⟩ := hphase <;> simp [hp, Phase.isPending]
  have hnobody : s.holding u = none := (holding_of_occ hc).trans (Occurrence.holding_of_pending hpending)
  have hheld : (Machine.claimRecord h u c s).holding u = some (h, c.level) := by
    simp [State.holding, Machine.claimRecord, Occurrence.holding]
  have hothers : ∀ v, v ≠ u → (Machine.claimRecord h u c s).holding v = s.holding v := fun v hv =>
    holding_congr (by simp [Machine.claimRecord, hv, leaveList])
  have hstack : ((Machine.claimRecord h u c s).host h).stack = ⟨u, c.level⟩ :: (s.host h).stack := by
    simp [Machine.claimRecord]
  have hkept : ∀ g, g ≠ h → ((Machine.claimRecord h u c s).host g).stack = (s.host g).stack := fun g hg => by
    simp [Machine.claimRecord, hg, leaveList]
  refine ⟨fun g e => ?_, fun g => ?_⟩
  · by_cases htag : e.tag = u
    · have hnotin : e ∉ (s.host g).stack := fun he => by
        have := (hmem g e).mp he
        rw [htag, hnobody] at this
        cases this
      rw [htag, hheld]
      by_cases hg : g = h
      · subst hg
        obtain ⟨v, l⟩ := e
        obtain rfl : v = u := htag
        rw [hstack, List.mem_cons, or_iff_left hnotin]
        simp [eq_comm]
      · rw [hkept g hg]
        simp [hnotin, Ne.symm hg]
    · rw [hothers _ htag, ← hmem g e]
      by_cases hg : g = h
      · subst hg
        rw [hstack, List.mem_cons, or_iff_right_iff_imp]
        rintro rfl
        exact absurd rfl htag
      · rw [hkept g hg]
  · by_cases hg : g = h
    · subst hg
      rw [hstack, List.pairwise_cons]
      refine ⟨fun e he => ?_, hsorted g⟩
      cases hs : (s.host g).stack with
      | nil => rw [hs] at he; cases he
      | cons top rest =>
        have htop : c.level < top.level := by simpa [HostContext.runningLevel, hs] using hrunning
        have hsort := hsorted g
        rw [hs, List.pairwise_cons] at hsort
        rw [hs, List.mem_cons] at he
        obtain rfl | he := he
        · exact htop
        · exact htop.trans (hsort.1 e he)
    · rw [hkept g hg]
      exact hsorted g

/-! ### Events, requests and the step -/

theorem HoldingExact.withdraw (hs : HoldingExact s) (hu : s.isPendingTag u = true) : HoldingExact (freeRecord u s) := by
  cases hc : s.occ u with
  | none => simpa [freeRecord, hc] using hs
  | some c => exact (hs.but (holding_of_pendingTag hu)).freeRecord hc

theorem HoldingExact.moveLevel (hs : HoldingExact s) (o : Origin) (l : Level) : HoldingExact (moveLevel o l s) := by
  unfold Machine.moveLevel
  split
  case h_2 => exact hs
  case h_1 u hu =>
    obtain ⟨d, hd, -, hpending⟩ := State.occ_of_pendingTag hu
    split
    case h_2 => exact hs
    case h_1 c hc =>
      cases hd.symm.trans hc
      refine hs.of_same (fun _ => rfl) fun v => ?_
      by_cases hv : v = u
      · subst hv
        have hmoved : (joinList v l ((leaveList v d.level s).setOcc v { d with level := l })).occ v =
            some { d with level := l } := State.occ_setOcc_same (leaveList v d.level s) v _
        rw [holding_of_occ hmoved, holding_of_occ hd, Occurrence.holding_of_pending hpending]
        exact Occurrence.holding_of_pending (c := { d with level := l }) hpending
      · exact holding_congr (State.occ_setOcc_ne (leaveList u d.level s) u v _ hv)

theorem HoldingExact.of_tables {s t : State} (hs : HoldingExact s) (hr : t.records = s.records) (hh : t.hosts = s.hosts) :
    HoldingExact t :=
  hs.of_same (fun h => by rw [State.host, hh, State.host]) fun v =>
    holding_congr (by rw [State.occ, State.record, hr, State.occ, State.record])

theorem requestClosed_holding : RequestClosed HoldingExact where
  session hs _ := hs
  commitPolicy _ hs := hs
  pool := poolClosed_holding
  rest _ _ _ _ _ hr _ hh _ _ _ hs := hs.of_tables hr hh
  context {s h} x hx _ hs := hs.of_same (fun g => by
    by_cases hg : g = h
    · subst hg; simp [hx]
    · simp [hg]) fun _ => rfl
  filter _ hs := hs.of_same (fun _ => rfl) fun _ => rfl
  opens {s u} hs := hs.of_same
    (fun h => by rw [State.host, State.hosts_of_pool (openRecord_besidePool s u), State.host]) holding_openRecord
  move o l hs := hs.moveLevel o l
  withdraw hu hs := hs.withdraw hu
  claim hc hoffer hs := hs.claimRecord hc hoffer
  extend {s u c} k hc hclaimed hs := hs.of_same (fun _ => rfl) fun v => by
    by_cases hv : v = u
    · subst hv
      have hd : (s.setRecord v { s.record v with
          timer := .running k, occ := some { c with phase := c.phase.extended } }).occ v =
          some { c with phase := c.phase.extended } := by simp
      rw [holding_of_occ hd, holding_of_occ hc]
      cases hp : c.phase <;> simp [Occurrence.holding, Phase.extended, hp]
    · exact holding_setRecord_ne _ hv
  free hc hs := (hs.removeEntry hc).freeRecord hc.1
  rearm {s h u c} hc hs := by
    have hremoved := hs.removeEntry hc
    have hadvanced : HoldingExactBut u ((removeEntry h u s).advanceSeq c.origin) := hremoved.of_same
      (fun g => by rw [host_advanceSeq]) fun v _ => holding_congr (occ_advanceSeq _ _ v)
    exact hadvanced.enterPending _
  back hc hs := hs.returnEntry hc
  revoke h hs := hs.revoke h
  commitLine n new hs := poolClosed_holding.commitMembership (fun _ _ hu hs => hs.withdraw hu) n _ new
    (hs.of_same (fun _ => rfl) fun _ => rfl)
  commitPosted _ _ hs := hs.of_same (fun _ => rfl) fun _ => rfl
  commitGroup _ _ hs := hs.of_same (fun _ => rfl) fun _ => rfl

theorem holdingExact_resetBlocks (s : State) : HoldingExact (resetBlocks s) := by
  refine ⟨fun h e => ?_, fun h => ?_⟩
  · simp [HostContext.reset, State.holding]
  · simp [HostContext.reset]

/-- Settles O55: entries and holders change together. -/
theorem stacksStayExact : Obligations.StacksStayExact := by
  intro s t hs hstep
  have hsample : ∀ levels s, HoldingExact s → HoldingExact (sampleLines levels (countTimers s)) := fun levels s hs =>
    hs.of_same (fun _ => rfl) fun v => holding_congr (by rw [State.occ, record_sample, State.occ])
  have hcore : ∀ s t : State, t.core = s.core → HoldingExact s → HoldingExact t := fun s t hcore hs => by
    obtain ⟨-, -, -, hr, -, hh, -⟩ := State.tables_of_core hcore
    exact hs.of_tables hr hh
  exact stacksExact_iff.mpr
    ((requestClosed_holding.stepClosed hcore holdingExact_resetBlocks hsample).step (stacksExact_iff.mp hs) hstep)

end Sys2Proof.Machine
end

section
/-! ATTN at its condition (O57): every event and every request that may change an input of the Offer Logic ends with the
outputs settled, and the others change no input. -/

namespace Sys2Proof.Machine

variable {s t : State}

theorem attnSettled_settle (s : State) : AttnSettled (settle s) := by
  intro h
  have hattn : (settle s).attn.look h = (settle s).attnCondition h := Table.look_mapIdx _ _ _
  rw [hattn, State.attnCondition_iff]

/-- The items of a Host Context that the Offer Logic reads. -/
def HostContext.offerInputs (c : HostContext) : Presence × Option Level × List StackEntry × List Notice :=
  (c.presence, c.floor, c.stack, c.queue)

/-- What is offerable to a host depends on the record, its governing terms and the Host Context alone (R60). -/
theorem State.offerable_congr {h : HostId} {u : Tag} (hocc : t.occ u = s.occ u)
    (hterms : ∀ o, t.termsOf o = s.termsOf o) (hhost : (t.host h).offerInputs = (s.host h).offerInputs) :
    t.offerable h u = s.offerable h u := by
  have hpresence : (t.host h).presence = (s.host h).presence := congrArg Prod.fst hhost
  have hfloor : (t.host h).floor = (s.host h).floor := congrArg (fun x => x.2.1) hhost
  have hstack : (t.host h).stack = (s.host h).stack := congrArg (fun x => x.2.2.1) hhost
  have hallows : ∀ l, (t.host h).floorAllows l = (s.host h).floorAllows l := fun l => by
    simp only [HostContext.floorAllows, hfloor]
  have hrunning : (t.host h).runningLevel = (s.host h).runningLevel := by
    simp only [HostContext.runningLevel, hstack]
  simp only [State.offerable, State.offersTo, hocc, hterms, hpresence, hallows, hrunning]

/-- Outputs and inputs unchanged. -/
theorem AttnSettled.of_same (hs : AttnSettled s) (hattn : t.attn = s.attn) (hreset : t.inReset = s.inReset)
    (hocc : ∀ u, t.occ u = s.occ u) (hterms : ∀ o, t.termsOf o = s.termsOf o)
    (hhost : ∀ h, (t.host h).offerInputs = (s.host h).offerInputs) : AttnSettled t := by
  have hqueue : ∀ h, (t.host h).queue = (s.host h).queue := fun h => congrArg (fun x => x.2.2.2) (hhost h)
  have hoffer : ∀ h u, Offerable t h u ↔ Offerable s h u := fun h u => by
    rw [← State.offerable_iff, ← State.offerable_iff, State.offerable_congr (hocc u) hterms (hhost h)]
  simpa only [AttnSettled, hattn, hreset, hoffer, hqueue] using hs

theorem AttnSettled.of_core (hcore : t.core = s.core) (hs : AttnSettled s) : AttnSettled t := by
  simp only [State.core, Prod.mk.injEq] at hcore
  obtain ⟨hrstn, hpower, hattn, hlines, hposted, hgroups, hrecords, -, hhosts, -, -⟩ := hcore
  refine hs.of_same hattn ?_ (fun u => ?_) (fun o => ?_) (fun h => ?_)
  · rw [State.inReset, hrstn, hpower, State.inReset]
  · rw [State.occ, State.record, hrecords, State.occ, State.record]
  · cases o
    · simp only [State.termsOf, State.line, hlines]
    · simp only [State.termsOf, State.posted, hposted]
    · simp only [State.termsOf, State.group, hgroups]
  · rw [State.host, hhosts, State.host]

theorem attnSettled_resetBlocks (s : State) : AttnSettled (resetBlocks s) := by
  intro h
  have hattn : (resetBlocks s).attn.look h = false := Table.look_const _ h
  simp [hattn, HostContext.reset, Offerable]

theorem descs_sample (levels : BitVec 48) (s : State) : (sampleLines levels (countTimers s)).descs = s.descs :=
  State.descs_ext (fun n => by rw [line_sample]; exact (LineSource.sample_fields _ _).1) (fun _ => rfl) fun _ => rfl

theorem AttnSettled.sample (hs : AttnSettled s) (levels : BitVec 48) : AttnSettled (sampleLines levels (countTimers s)) :=
  hs.of_same rfl rfl (fun u => by rw [State.occ, record_sample, State.occ])
    (fun o => State.termsOf_of_descs (descs_sample levels s) o) fun _ => rfl

/-! ### Events -/

theorem AttnSettled.deliver (hs : AttnSettled s) (e : DueEvent) : AttnSettled (deliver e s) := by
  cases e with
  | line n =>
    change AttnSettled (lineEvent n s)
    unfold lineEvent
    split
    · split
      · exact attnSettled_settle _
      · exact hs
    · exact hs
  | window u =>
    change AttnSettled (windowEvent u s)
    unfold windowEvent
    split
    · split
      · exact attnSettled_settle _
      · exact hs
    · exact hs
  | lease u =>
    change AttnSettled (leaseEvent u s)
    unfold leaseEvent
    split
    · split
      · exact attnSettled_settle _
      · exact hs
    · exact hs
  | session =>
    change AttnSettled (sessionEvent s)
    unfold sessionEvent
    split
    · split
      · exact attnSettled_settle _
      · exact hs
    · exact hs
  | seedTest n => exact attnSettled_settle _

/-! ### Requests -/

/-- A request that is answered otherwise than OK leaves ATTN and its inputs alone, or ATTN settles after it. -/
theorem attnSettled_settleAnswered {r : State × Answer} (hr : r.2.code = .ok ∨ AttnSettled r.1) :
    AttnSettled (settleAnswered r).1 := by
  unfold settleAnswered
  split
  · exact attnSettled_settle _
  · exact hr.resolve_left ‹_›

theorem AttnSettled.session (hs : AttnSettled s) (x : Option Session) : AttnSettled { s with session := x } :=
  hs.of_same rfl rfl (fun _ => rfl) (fun o => by cases o <;> rfl) fun _ => rfl

theorem AttnSettled.withSession (hs : AttnSettled s) {h : HostId} {act : Session → State → State × Answer}
    (hact : ∀ x t, AttnSettled t → (act x t).2.code = .ok ∨ AttnSettled (act x t).1) :
    (withSession h s act).2.code = .ok ∨ AttnSettled (withSession h s act).1 := by
  unfold Machine.withSession
  split
  · split
    · exact hact _ _ (hs.session _)
    · exact .inr hs
  · exact .inr hs

theorem AttnSettled.extendRequest (hs : AttnSettled s) (h : HostId) (tag epoch : Byte) :
    AttnSettled (extendRequest h tag epoch s).1 := by
  unfold Machine.extendRequest
  split
  case h_1 => exact hs
  case h_2 u c hv =>
    obtain ⟨-, hc, ⟨k, ms, hp⟩, -⟩ := validToken_sound s h tag epoch u c hv
    dsimp only
    split
    case isFalse => exact hs
    case isTrue =>
      intro g
      refine (hs g).trans (and_congr_right fun _ => or_congr_right (exists_congr fun v => ?_))
      rw [← State.offerable_iff, ← State.offerable_iff]
      by_cases hv : v = u
      · subst hv; simp [State.offerable, State.offersTo, hc, hp, Phase.extended]
      · have hterms : ∀ x o, (s.setRecord u x).termsOf o = s.termsOf o := fun x o => by cases o <;> rfl
        rw [State.offerable_congr (State.occ_setRecord_ne s u v _ hv) (hterms _) rfl]

theorem AttnSettled.takeNoticeRequest (hs : AttnSettled s) (h : HostId) :
    (takeNoticeRequest h s).2.code = .ok ∨ AttnSettled (takeNoticeRequest h s).1 := by
  unfold Machine.takeNoticeRequest
  dsimp only
  split
  · exact .inl rfl
  · refine .inr (hs.of_same rfl rfl (fun _ => rfl) (fun o => by cases o <;> rfl) fun g => ?_)
    by_cases hg : g = h
    · subst hg; simp [HostContext.offerInputs]
    · simp [hg]

theorem AttnSettled.stageRequest (hs : AttnSettled s) (h : HostId) (entry : Option StagedEntry) :
    AttnSettled (stageRequest h entry s).1 := by
  have hsession : ∀ x, AttnSettled { s with session := x } := hs.session
  unfold Machine.stageRequest Machine.withSession
  split
  · split
    · dsimp only
      split
      · exact hsession _
      · split
        · exact hsession _
        · exact hsession _
    · exact hs
  · exact hs

theorem AttnSettled.discardRequest (hs : AttnSettled s) (h : HostId) : AttnSettled (discardRequest h s).1 := by
  unfold Machine.discardRequest Machine.withSession
  split
  · split
    · exact hs.session _
    · exact hs
  · exact hs

theorem AttnSettled.openSessionRequest (hs : AttnSettled s) (h : HostId) : AttnSettled (openSessionRequest h s).1 := by
  obtain ⟨x, hx⟩ := openSessionRequest_changes_session s h
  rw [hx]
  exact hs.session x

theorem AttnSettled.commitRequest (hs : AttnSettled s) (h : HostId) :
    (commitRequest h s).2.code = .ok ∨ AttnSettled (commitRequest h s).1 := by
  refine hs.withSession fun x t ht => ?_
  split
  · exact .inr ht
  · exact .inl rfl

theorem leaveRequest_ok_or_unchanged (s : State) (h : HostId) (manner : Byte) :
    (leaveRequest h manner s).2.code = .ok ∨ (leaveRequest h manner s).1 = s := by
  unfold leaveRequest
  split
  · exact .inl rfl
  · split
    · exact .inl rfl
    · exact .inr rfl

theorem setFloorRequest_ok_or_unchanged (s : State) (h : HostId) (arg : Byte) :
    (setFloorRequest h arg s).2.code = .ok ∨ (setFloorRequest h arg s).1 = s := by
  unfold setFloorRequest
  split
  · exact .inl rfl
  · exact .inr rfl

theorem claimRequest_ok_or_unchanged (s : State) (h : HostId) :
    (claimRequest h s).2.code = .ok ∨ (claimRequest h s).1 = s := by
  unfold claimRequest
  split
  · split
    · exact .inl rfl
    · exact .inr rfl
  · exact .inr rfl

theorem completeRequest_ok_or_unchanged (s : State) (h : HostId) (tag epoch : Byte) :
    (completeRequest h tag epoch s).2.code = .ok ∨ (completeRequest h tag epoch s).1 = s := by
  unfold completeRequest
  split
  · exact .inr rfl
  · dsimp only
    split
    · exact .inl rfl
    · exact .inl rfl

theorem handbackRequest_ok_or_unchanged (s : State) (h : HostId) (tag epoch : Byte) :
    (handbackRequest h tag epoch s).2.code = .ok ∨ (handbackRequest h tag epoch s).1 = s := by
  unfold handbackRequest
  split
  · exact .inr rfl
  · exact .inl rfl

theorem raiseRequest_ok_or_unchanged (s : State) (h : HostId) (source : Byte) (payload : BitVec 16) (notify : Byte) :
    (raiseRequest h source payload notify s).2.code = .ok ∨ (raiseRequest h source payload notify s).1 = s := by
  unfold raiseRequest
  split
  · split
    · split
      · exact .inr rfl
      · split
        · exact .inl rfl
        · exact .inr rfl
    · exact .inr rfl
  · exact .inr rfl

theorem readRecordRequest_unchanged (s : State) (tag : Byte) : (readRecordRequest tag s).1 = s := by
  unfold readRecordRequest; split <;> rfl

theorem readSourceRequest_unchanged (s : State) (source : Byte) : (readSourceRequest source s).1 = s := by
  unfold readSourceRequest; split <;> rfl

theorem readGroupRequest_unchanged (s : State) (group : Byte) : (readGroupRequest group s).1 = s := by
  unfold readGroupRequest; split <;> rfl

theorem AttnSettled.performRequest (hs : AttnSettled s) (h : HostId) (req : Request) :
    AttnSettled (performRequest h req s).1 := by
  have unchanged : ∀ {r : State × Answer}, r.2.code = .ok ∨ r.1 = s → AttnSettled (settleAnswered r).1 := by
    intro r hr
    refine attnSettled_settleAnswered (hr.imp_right fun hkept => ?_)
    rw [hkept]
    exact hs
  cases req with
  | join => exact attnSettled_settleAnswered (.inl rfl)
  | leave manner => exact unchanged (leaveRequest_ok_or_unchanged s h manner)
  | setFloor floor => exact unchanged (setFloorRequest_ok_or_unchanged s h floor)
  | claim => exact unchanged (claimRequest_ok_or_unchanged s h)
  | complete tag epoch => exact unchanged (completeRequest_ok_or_unchanged s h tag epoch)
  | handback tag epoch => exact unchanged (handbackRequest_ok_or_unchanged s h tag epoch)
  | raise source payload notify => exact unchanged (raiseRequest_ok_or_unchanged s h source payload notify)
  | takeNotice => exact attnSettled_settleAnswered (hs.takeNoticeRequest h)
  | commit => exact attnSettled_settleAnswered (hs.commitRequest h)
  | extend tag epoch => exact hs.extendRequest h tag epoch
  | openSession => exact hs.openSessionRequest h
  | stageSource source d => exact hs.stageRequest h _
  | stageGroup group d => exact hs.stageRequest h _
  | stagePolicy p => exact hs.stageRequest h _
  | discard => exact hs.discardRequest h
  | peek => exact hs
  | readPolicy => exact hs
  | readRecord tag => exact (readRecordRequest_unchanged s tag).symm ▸ hs
  | readSource source => exact (readSourceRequest_unchanged s source).symm ▸ hs
  | readGroup group => exact (readGroupRequest_unchanged s group).symm ▸ hs

theorem stepClosed_attnSettled : StepClosed AttnSettled where
  core _ _ hcore hs := hs.of_core hcore
  reset := attnSettled_resetBlocks
  sample levels _ hs := hs.sample levels
  event e _ hs := hs.deliver e
  request h req s hs := by
    obtain ⟨code, -, he⟩ | ⟨-, he⟩ := carryOut_cases s h req <;> rw [he]
    · exact hs
    · exact hs.performRequest h req

/-- Settles O57: what may change an input of the Offer Logic ends in a settling of ATTN. -/
theorem attnStaysSettled : Obligations.AttnStaysSettled :=
  fun _ _ hs hstep => stepClosed_attnSettled.step hs hstep

end Sys2Proof.Machine
end

section
/-! Host Contexts and presence (O56): what each event and request leaves of the Host Contexts and of the session's
holder, while one host is on its way to another presence. -/

namespace Sys2Proof.Machine

variable {s t : State} {h : HostId}

/-! ### A Host Context that its presence allows -/

/-- What the presence of a host allows of its context, but for the stack of a DRAINING host. -/
structure HostContext.FitsBut (c : HostContext) : Prop where
  absent : c.presence = .absent → c.stack = [] ∧ c.queue = [] ∧ c.overflow = false
  fenced : c.presence = .fenced → c.stack = [] ∧ c.queue.length ≤ 1 ∧ c.overflow = false
  floor : c.presence ≠ .present → c.floor = none
  strikes : c.strikes ≤ 7

/-- What the presence of a host allows of its context (R121, R133, R135). -/
structure HostContext.Fits (c : HostContext) : Prop extends c.FitsBut where
  draining : c.presence = .draining → c.stack ≠ []

/-- A PRESENT host holds the session, if any does; `but` may hold it as well. -/
def HolderPresent (s : State) (but : Option HostId) : Prop :=
  ∀ x, s.session = some x → some x.holder = but ∨ (s.host x.holder).presence = .present

theorem presenceConsistent_iff : PresenceConsistent s ↔ (∀ h, (s.host h).Fits) ∧ HolderPresent s none := by
  constructor
  · rintro ⟨habsent, hfenced, hdraining, hfloor, hstrikes, hsession⟩
    exact ⟨fun h => ⟨⟨habsent h, hfenced h, hfloor h, hstrikes h⟩, hdraining h⟩,
      fun x hx => .inr (hsession x.holder (by simp [hx]))⟩
  · rintro ⟨hfits, hsession⟩
    refine ⟨fun h => (hfits h).absent, fun h => (hfits h).fenced, fun h => (hfits h).draining,
      fun h => (hfits h).floor, fun h => (hfits h).strikes, fun h hx => ?_⟩
    cases hs : s.session with
    | none => simp [hs] at hx
    | some x =>
      have hholder : x.holder = h := by simpa [hs] using hx
      exact hholder ▸ (hsession x hs).resolve_left nofun

theorem HostContext.fits_of_present {c : HostContext} (hpresent : c.presence = .present) (hstrikes : c.strikes ≤ 7) :
    c.Fits where
  absent h := by rw [hpresent] at h; cases h
  fenced h := by rw [hpresent] at h; cases h
  floor h := absurd hpresent h
  strikes := hstrikes
  draining h := by rw [hpresent] at h; cases h

/-- A notice is placed only in the queue of a PRESENT or DRAINING host, which may hold it (R142). -/
theorem HostContext.FitsBut.enqueue {c : HostContext} (hc : c.FitsBut) (htakes : c.presence.takesNotices = true)
    (n : Notice) : (c.enqueue n).FitsBut where
  absent h := by rw [enqueue_presence] at h; rw [h] at htakes; cases htakes
  fenced h := by rw [enqueue_presence] at h; rw [h] at htakes; cases htakes
  floor h := by rw [enqueue_floor]; exact hc.floor (by rwa [enqueue_presence] at h)
  strikes := by rw [enqueue_strikes]; exact hc.strikes

theorem HostContext.Fits.enqueue {c : HostContext} (hc : c.Fits) (htakes : c.presence.takesNotices = true)
    (n : Notice) : (c.enqueue n).Fits where
  toFitsBut := hc.toFitsBut.enqueue htakes n
  draining h := by rw [enqueue_stack]; exact hc.draining (by rwa [enqueue_presence] at h)

/-! ### The contexts while one host is on its way -/

/-- As the invariant, but the stack of `h` may be empty though it is DRAINING. -/
structure PresenceBut (h : HostId) (s : State) : Prop where
  own : (s.host h).FitsBut
  others : ∀ g, g ≠ h → (s.host g).Fits
  session : HolderPresent s none

/-- As the invariant, but the presence of `h` is about to change; only its strike count is bounded. -/
structure OthersFit (h : HostId) (s : State) : Prop where
  strikes : (s.host h).strikes ≤ 7
  others : ∀ g, g ≠ h → (s.host g).Fits
  session : HolderPresent s (some h)

theorem PresenceBut.othersFit (hs : PresenceBut h s) : OthersFit h s :=
  ⟨hs.own.strikes, hs.others, fun x hx => .inr ((hs.session x hx).resolve_left nofun)⟩

theorem presenceBut_of_consistent (hs : PresenceConsistent s) (h : HostId) : PresenceBut h s :=
  have ⟨hfits, hsession⟩ := presenceConsistent_iff.mp hs
  ⟨(hfits h).toFitsBut, fun g _ => hfits g, hsession⟩

theorem PresenceBut.consistent (hs : PresenceBut h s) (hdraining : (s.host h).presence = .draining → (s.host h).stack ≠ []) :
    PresenceConsistent s := by
  refine presenceConsistent_iff.mpr ⟨fun g => ?_, hs.session⟩
  by_cases hg : g = h
  · subst hg; exact ⟨hs.own, hdraining⟩
  · exact hs.others g hg

/-- The host on its way has arrived. -/
theorem OthersFit.consistent (hs : OthersFit h s) (hown : (s.host h).Fits)
    (hsession : ∀ x, s.session = some x → x.holder = h → (s.host h).presence = .present) : PresenceConsistent s := by
  refine presenceConsistent_iff.mpr ⟨fun g => ?_, fun x hx => .inr ?_⟩
  · by_cases hg : g = h
    · subst hg; exact hown
    · exact hs.others g hg
  · obtain hx' | hx' := hs.session x hx
    · have hholder := Option.some.inj hx'
      exact hholder ▸ hsession x hx hholder
    · exact hx'

/-- Only the Host Contexts and the session are read. -/
theorem PresenceConsistent.of_same (hs : PresenceConsistent s) (hhosts : t.hosts = s.hosts)
    (hsession : t.session = s.session) : PresenceConsistent t := by
  have hhost : ∀ g, t.host g = s.host g := fun g => by rw [State.host, hhosts, State.host]
  simpa only [PresenceConsistent, hhost, hsession] using hs

theorem PresenceBut.of_same (hs : PresenceBut h s) (hhosts : t.hosts = s.hosts) (hsession : t.session = s.session) :
    PresenceBut h t := by
  have hhost : ∀ g, t.host g = s.host g := fun g => by rw [State.host, hhosts, State.host]
  obtain ⟨hown, hothers, hholder⟩ := hs
  exact ⟨hhost h ▸ hown, fun g hg => hhost g ▸ hothers g hg, by simpa only [HolderPresent, hhost, hsession] using hholder⟩

theorem OthersFit.of_same (hs : OthersFit h s) (hhosts : t.hosts = s.hosts) (hsession : t.session = s.session) :
    OthersFit h t := by
  have hhost : ∀ g, t.host g = s.host g := fun g => by rw [State.host, hhosts, State.host]
  obtain ⟨hown, hothers, hholder⟩ := hs
  exact ⟨hhost h ▸ hown, fun g hg => hhost g ▸ hothers g hg, by simpa only [HolderPresent, hhost, hsession] using hholder⟩

/-- A context replaced by one of the same presence. -/
theorem HolderPresent.setHost {but : Option HostId} (hs : HolderPresent s but) {x : HostContext}
    (hx : x.presence = (s.host h).presence) : HolderPresent (s.setHost h x) but := by
  intro y hy
  refine (hs y hy).imp_right fun hp => ?_
  by_cases hg : y.holder = h
  · rw [hg] at hp ⊢; simpa [hx] using hp
  · simpa [hg] using hp

/-- A context replaced for the host that may hold the session anyway. -/
theorem HolderPresent.setHost_but (hs : HolderPresent s (some h)) (x : HostContext) :
    HolderPresent (s.setHost h x) (some h) := by
  intro y hy
  by_cases hg : y.holder = h
  · exact .inl (congrArg some hg)
  · exact (hs y hy).imp_right fun hp => by simpa [hg] using hp

theorem PresenceBut.setHost (hs : PresenceBut h s) {x : HostContext} (hx : x.FitsBut)
    (hpresence : x.presence = (s.host h).presence) : PresenceBut h (s.setHost h x) where
  own := by simpa using hx
  others g hg := by simpa [hg] using hs.others g hg
  session := hs.session.setHost hpresence

theorem OthersFit.setHost (hs : OthersFit h s) {x : HostContext} (hx : x.strikes ≤ 7) :
    OthersFit h (s.setHost h x) where
  strikes := by simpa using hx
  others g hg := by simpa [hg] using hs.others g hg
  session := hs.session.setHost_but x

theorem PresenceBut.place (hs : PresenceBut h s) (g : HostId) (n : Notice) : PresenceBut h (place g n s) := by
  obtain ⟨htakes, he⟩ | ⟨-, he⟩ := place_cases s g n <;> rw [he]
  · by_cases hg : g = h
    · subst hg; exact hs.setHost (hs.own.enqueue htakes n) (enqueue_presence _ n)
    · refine ⟨by simpa [Ne.symm hg] using hs.own, fun k hk => ?_, hs.session.setHost (enqueue_presence _ n)⟩
      by_cases hkg : k = g
      · subst hkg; simpa using (hs.others k hk).enqueue htakes n
      · simpa [hkg] using hs.others k hk
  · exact hs

theorem OthersFit.place (hs : OthersFit h s) (g : HostId) (n : Notice) : OthersFit h (place g n s) := by
  obtain ⟨htakes, he⟩ | ⟨-, he⟩ := place_cases s g n <;> rw [he]
  · by_cases hg : g = h
    · subst hg; exact hs.setHost (by rw [enqueue_strikes]; exact hs.strikes)
    · refine ⟨by simpa [Ne.symm hg] using hs.strikes, fun k hk => ?_, hs.session.setHost (enqueue_presence _ n)⟩
      by_cases hkg : k = g
      · subst hkg; simpa using (hs.others k hk).enqueue htakes n
      · simpa [hkg] using hs.others k hk
  · exact hs

theorem PresenceConsistent.place (hs : PresenceConsistent s) (g : HostId) (n : Notice) :
    PresenceConsistent (place g n s) := by
  refine ((presenceBut_of_consistent hs g).place g n).consistent fun hdraining => ?_
  have hstanding := place_standing s g g n
  simp only [HostContext.standing, Prod.mk.injEq] at hstanding
  rw [hstanding.2.2.2.2]
  exact ((presenceConsistent_iff.mp hs).1 g).draining (hstanding.1.symm.trans hdraining)

/-! ### Returns and revocations -/

/-- A property of the Host Contexts and the session alone is kept by every event of the pool. -/
theorem poolClosed_of_hosts {P : State → Prop} (hP : ∀ s t, t.besidePool = s.besidePool → P s → P t) : PoolClosed P where
  create o m p e _ hs := hP _ _ (createRecord_besidePool _ _ o m p e) hs
  merge k _ hs := hP _ _ (mergeInto_besidePool _ _ k) hs
  again hs := hP _ _ (setAgain_besidePool _ _) hs
  group x _ _ hs := hP _ _ (State.besidePool_setGroup _ _ x) hs
  mark x _ hs := hP _ _ (setLineStarved_besidePool _ _ x) hs

/-- Such a property is kept by a return if notices keep it. -/
theorem returnClosed_of_hosts {P : State → Prop} (hP : ∀ s t, t.besidePool = s.besidePool → P s → P t)
    (hnotice : ∀ (s : State) (h : HostId) (n : Notice), P s → P (place h n s)) (u : Tag) : ReturnClosed u P P where
  pool := poolClosed_of_hosts hP
  notice h n hs := hnotice _ h n hs
  timer x hs := hP _ _ (State.besidePool_setTimer _ u x) hs
  group x _ _ hs := hP _ _ (State.besidePool_setGroup _ _ x) hs
  mark _ hs := hP _ _ (setLineStarved_besidePool _ _ none) hs
  merge _ _ _ _ _ _ hs := hP _ _ (State.besidePool_setOcc _ _ _) hs
  opens _ hs := hP _ _ (openRecord_besidePool _ _) hs
  free _ _ hs := hP _ _ (freeRecord_besidePool _ u) hs
  enter _ _ _ _ hs := hP _ _ (enterPending_besidePool _ u _) hs

/-- Any record returns, or nothing happens. -/
theorem ReturnClosed.returnRecord_any {u : Tag} {P : State → Prop} (hP : ReturnClosed u P P) (hs : P s) (h : HostId) :
    P (Machine.returnRecord u h s).1 := by
  by_cases hclaimed : ∃ c, s.occ u = some c ∧ c.phase.isClaimed = true
  · obtain ⟨c, hc, hclaimed⟩ := hclaimed
    exact hP.returnRecord hs hc hclaimed h
  · rw [returnRecord_unclaimed s u h fun c hc => by simpa using fun hp => hclaimed ⟨c, hc, hp⟩]
    exact hs

theorem PresenceBut.of_pool (hb : t.besidePool = s.besidePool) (hs : PresenceBut h s) : PresenceBut h t :=
  hs.of_same (State.hosts_of_pool hb) (State.session_of_pool hb)

theorem OthersFit.of_pool (hb : t.besidePool = s.besidePool) (hs : OthersFit h s) : OthersFit h t :=
  hs.of_same (State.hosts_of_pool hb) (State.session_of_pool hb)

theorem PresenceConsistent.of_pool (hb : t.besidePool = s.besidePool) (hs : PresenceConsistent s) :
    PresenceConsistent t :=
  hs.of_same (State.hosts_of_pool hb) (State.session_of_pool hb)

theorem PresenceBut.returnRecord (hs : PresenceBut h s) (u : Tag) (g : HostId) :
    PresenceBut h (returnRecord u g s).1 :=
  (returnClosed_of_hosts (P := PresenceBut h) (fun _ _ hb hs => hs.of_pool hb) (fun _ g n hs => hs.place g n)
    u).returnRecord_any hs g

theorem OthersFit.returnRecord (hs : OthersFit h s) (u : Tag) (g : HostId) : OthersFit h (returnRecord u g s).1 :=
  (returnClosed_of_hosts (P := OthersFit h) (fun _ _ hb hs => hs.of_pool hb) (fun _ g n hs => hs.place g n)
    u).returnRecord_any hs g

theorem PresenceBut.removeEntry (hs : PresenceBut h s) (u : Tag) : PresenceBut h (removeEntry h u s) :=
  hs.setHost ⟨fun hp => by simpa [(hs.own.absent hp).1] using (hs.own.absent hp).2,
    fun hp => by simpa [(hs.own.fenced hp).1] using (hs.own.fenced hp).2, hs.own.floor, hs.own.strikes⟩ rfl

theorem OthersFit.revoke (hs : OthersFit h s) : OthersFit h (revoke h s) := by
  unfold Machine.revoke
  generalize (s.host h).stack = l
  induction l generalizing s with
  | nil => exact hs
  | cons e l ih =>
    have hremoved : OthersFit h (Machine.removeEntry h e.tag s) := hs.setHost hs.strikes
    exact ih (hremoved.returnRecord e.tag h)

theorem revokeEntry_stack (s : State) (h : HostId) (e : StackEntry) :
    ((revokeEntry h s e).host h).stack = (s.host h).stack.filter (fun f => decide (f.tag ≠ e.tag)) := by
  rw [revokeEntry, returnRecord_stack]
  simp [removeEntry]

/-- A revocation leaves no entry in the stack (R123). -/
theorem revoke_stack (s : State) (h : HostId) : ((revoke h s).host h).stack = [] := by
  have key : ∀ (l : List StackEntry) (s : State), (∀ e ∈ (s.host h).stack, ∃ f ∈ l, f.tag = e.tag) →
      ((l.foldl (revokeEntry h) s).host h).stack = [] := by
    intro l
    induction l with
    | nil =>
      intro s hl
      rw [List.eq_nil_iff_forall_not_mem]
      intro e he
      obtain ⟨f, hf, -⟩ := hl e he
      cases hf
    | cons f l ih =>
      intro s hl
      refine ih _ fun e he => ?_
      rw [revokeEntry_stack, List.mem_filter] at he
      obtain ⟨k, hk, htag⟩ := hl e he.1
      obtain rfl | hk := List.mem_cons.mp hk
      · exact absurd htag.symm (by simpa using he.2)
      · exact ⟨k, hk, htag⟩
  exact key _ s fun e he => ⟨e, he, rfl⟩

theorem revoke_keeps (s : State) (h : HostId) :
    (revoke h s).besideHosts = s.besideHosts ∧ (revoke h s).session = s.session ∧
      ∀ g, ((revoke h s).host g).presence = (s.host g).presence ∧ ((revoke h s).host g).floor = (s.host g).floor ∧
        ((revoke h s).host g).generation = (s.host g).generation ∧ ((revoke h s).host g).strikes = (s.host g).strikes ∧
        (g ≠ h → ((revoke h s).host g).stack = (s.host g).stack) := by
  unfold revoke
  generalize (s.host h).stack = l
  induction l generalizing s with
  | nil => exact ⟨rfl, rfl, fun g => ⟨rfl, rfl, rfl, rfl, fun _ => rfl⟩⟩
  | cons e l ih =>
    obtain ⟨hbeside, hsession, hhost⟩ := ih (revokeEntry h s e)
    obtain ⟨hbeside', hsession', hhost'⟩ := returnRecord_keeps (removeEntry h e.tag s) e.tag h
    refine ⟨hbeside.trans hbeside', hsession.trans hsession', fun g => ?_⟩
    obtain ⟨hp, hf, hg, hk, hst⟩ := hhost g
    have hkept := hhost' g
    simp only [HostContext.standing, Prod.mk.injEq] at hkept
    obtain ⟨hp', hf', hg', hk', hst'⟩ := hkept
    have hfields : ((removeEntry h e.tag s).host g).presence = (s.host g).presence ∧
        ((removeEntry h e.tag s).host g).floor = (s.host g).floor ∧
        ((removeEntry h e.tag s).host g).generation = (s.host g).generation ∧
        ((removeEntry h e.tag s).host g).strikes = (s.host g).strikes := by
      by_cases hgh : g = h
      · subst hgh; simp [removeEntry]
      · simp [removeEntry, hgh]
    obtain ⟨hp'', hf'', hg'', hk''⟩ := hfields
    refine ⟨hp.trans (hp'.trans hp''), hf.trans (hf'.trans hf''), hg.trans (hg'.trans hg''),
      hk.trans (hk'.trans hk''), fun hgh => (hst hgh).trans (hst'.trans ?_)⟩
    simp [removeEntry, hgh]

/-! ### Changes of presence -/

theorem dropSession_session (s : State) (h : HostId) (x : Session) (hx : (dropSession h s).session = some x) :
    s.session = some x ∧ x.holder ≠ h := by
  unfold dropSession at hx
  split at hx
  case h_1 y hy =>
    split at hx
    · cases hx
    · rw [hy] at hx
      cases hx
      exact ⟨hy, ‹_›⟩
  case h_2 hnone => rw [hnone] at hx; cases hx

theorem dropSession_hosts (s : State) (h : HostId) : (dropSession h s).hosts = s.hosts := by
  unfold dropSession
  split
  · split <;> rfl
  · rfl

@[simp] theorem dropSession_host (s : State) (h g : HostId) : (dropSession h s).host g = s.host g := by
  rw [State.host, dropSession_hosts, State.host]

theorem OthersFit.dropSession (hs : OthersFit h s) : OthersFit h (dropSession h s) where
  strikes := by simpa using hs.strikes
  others g hg := by simpa using hs.others g hg
  session x hx := by
    have hx' := dropSession_session s h x hx
    simpa using hs.session x hx'.1

theorem PresenceConsistent.joinRequest (hs : PresenceConsistent s) (h : HostId) :
    PresenceConsistent (joinRequest h s).1 := by
  have hothers := (presenceBut_of_consistent hs h).othersFit
  have arrived : ∀ m, OthersFit h m → PresenceConsistent (becomePresent h (flush h m)) := fun m hm => by
    have hset : OthersFit h (becomePresent h (flush h m)) := by
      rw [becomePresent_flush]
      exact hm.setHost (by simp [HostContext.joined])
    refine hset.consistent (HostContext.fits_of_present ?_ hset.strikes) fun _ _ _ => ?_
    · simp [becomePresent]
    · simp [becomePresent]
  unfold Machine.joinRequest
  dsimp only
  split
  · exact arrived s hothers
  · exact arrived s hothers
  · exact arrived _ hothers.revoke.dropSession
  · exact arrived _ hothers.revoke.dropSession

/-- A host that has left with an empty stack (R127, R129, R130). -/
theorem HostContext.fits_of_absent {c : HostContext} (hpresence : c.presence = .absent) (hstack : c.stack = [])
    (hqueue : c.queue = []) (hoverflow : c.overflow = false) (hfloor : c.floor = none) (hstrikes : c.strikes ≤ 7) :
    c.Fits where
  absent _ := ⟨hstack, hqueue, hoverflow⟩
  fenced h := by rw [hpresence] at h; cases h
  floor _ := hfloor
  strikes := hstrikes
  draining h := by rw [hpresence] at h; cases h

/-- The session once dropped is not the leaving host's. -/
theorem OthersFit.consistent_dropped (hs : OthersFit h t) (hown : (t.host h).Fits)
    (hsession : t.session = (Machine.dropSession h s).session) : PresenceConsistent t :=
  hs.consistent hown fun x hx hholder => absurd hholder (dropSession_session s h x (hsession ▸ hx)).2

theorem PresenceConsistent.leaveGracefulRequest (hs : PresenceConsistent s) (h : HostId) :
    PresenceConsistent (leaveGracefulRequest h s).1 := by
  have hdropped := (presenceBut_of_consistent hs h).othersFit.dropSession
  unfold Machine.leaveGracefulRequest
  dsimp only
  refine PresenceConsistent.of_pool (openWindowsOf_besidePool _ h) ?_
  split
  case isTrue hempty =>
    have hset : OthersFit h (flush h (setStanding h .absent none (Machine.dropSession h s))) :=
      (hdropped.setHost (x := { (Machine.dropSession h s).host h with presence := .absent, floor := none })
        hdropped.strikes).setHost (by simpa [setStanding] using hdropped.strikes)
    refine hset.consistent_dropped (HostContext.fits_of_absent ?_ ?_ ?_ ?_ ?_ hset.strikes) rfl
    · simp [setStanding]
    · simpa [setStanding] using hempty
    · simp
    · simp
    · simp [setStanding]
  case isFalse hheld =>
    have hset : OthersFit h (setStanding h .draining none (Machine.dropSession h s)) :=
      hdropped.setHost hdropped.strikes
    refine hset.consistent_dropped ⟨⟨?_, ?_, ?_, hset.strikes⟩, ?_⟩ rfl
    · simp [setStanding]
    · simp [setStanding]
    · simp [setStanding]
    · simpa [setStanding] using hheld

theorem PresenceConsistent.leaveImmediateRequest (hs : PresenceConsistent s) (h : HostId) :
    PresenceConsistent (leaveImmediateRequest h s).1 := by
  have hdropped := (presenceBut_of_consistent hs h).othersFit.revoke.dropSession
  have hset : OthersFit h (flush h (setStanding h .absent none (Machine.dropSession h (Machine.revoke h s)))) :=
    (hdropped.setHost (x := { (Machine.dropSession h (Machine.revoke h s)).host h with
      presence := .absent, floor := none }) hdropped.strikes).setHost (by simpa [setStanding] using hdropped.strikes)
  have hleft : PresenceConsistent (flush h (setStanding h .absent none (Machine.dropSession h (Machine.revoke h s)))) := by
    refine hset.consistent_dropped (HostContext.fits_of_absent ?_ ?_ ?_ ?_ ?_ hset.strikes) rfl
    · simp [setStanding]
    · simp [setStanding, revoke_stack]
    · simp
    · simp
    · simp [setStanding]
  unfold Machine.leaveImmediateRequest
  dsimp only
  split
  · exact hleft.of_pool (openWindowsOf_besidePool _ h)
  · exact hleft

theorem PresenceConsistent.leaveRequest (hs : PresenceConsistent s) (h : HostId) (manner : Byte) :
    PresenceConsistent (leaveRequest h manner s).1 := by
  unfold Machine.leaveRequest
  split
  · exact hs.leaveGracefulRequest h
  · split
    · exact hs.leaveImmediateRequest h
    · exact hs

/-- A drain that is complete makes the host ABSENT; any other host keeps what it has (R73, R129). -/
theorem PresenceBut.drainCheck (hs : PresenceBut h s) : PresenceConsistent (drainCheck h s) := by
  unfold Machine.drainCheck
  split
  case isTrue hdrained =>
    obtain ⟨hpresence, hstack⟩ := hdrained
    have hset : OthersFit h (flush h (s.setHost h { s.host h with presence := .absent })) :=
      (hs.othersFit.setHost (x := { s.host h with presence := .absent }) hs.own.strikes).setHost
        (by simpa using hs.own.strikes)
    refine hset.consistent (HostContext.fits_of_absent ?_ ?_ ?_ ?_ ?_ hset.strikes) fun x hx hholder => ?_
    · simp
    · simpa using hstack
    · simp
    · simp
    · simpa using hs.own.floor (by simp [hpresence])
    · have hpresent := (hs.session x hx).resolve_left nofun
      rw [hholder, hpresence] at hpresent
      cases hpresent
  case isFalse hnot => exact hs.consistent fun hp hstack => hnot ⟨hp, hstack⟩

theorem OthersFit.placeAll_others (hs : OthersFit h s) (n : Notice) :
    OthersFit h (placeAll (fun g => decide (g ≠ h)) n s) ∧
      (placeAll (fun g => decide (g ≠ h)) n s).host h = s.host h := by
  unfold placeAll
  induction hostIds generalizing s with
  | nil => exact ⟨hs, rfl⟩
  | cons g l ih =>
    rw [List.foldl_cons]
    by_cases hg : g = h
    · simpa [hg] using ih hs
    · obtain ⟨hfits, hhost⟩ := ih (hs.place g n)
      have hplaced : (Machine.place g n s).host h = s.host h := by
        obtain ⟨-, he⟩ | ⟨-, he⟩ := place_cases s g n <;> rw [he]
        simp [Ne.symm hg]
      simp only [hg, ne_eq, not_false_eq_true, decide_true, if_true]
      exact ⟨hfits, hhost.trans hplaced⟩

/-- A fence (R132) leaves the fenced host with its one notice and without the session. -/
theorem OthersFit.fence (hs : OthersFit h s) : PresenceConsistent (fence h s) := by
  have hrevoked : OthersFit h (Machine.revoke h (setStanding h .fenced none s)) :=
    (hs.setHost (x := { s.host h with presence := .fenced, floor := none }) hs.strikes).revoke
  obtain ⟨-, -, hkept⟩ := revoke_keeps (setStanding h .fenced none s) h
  obtain ⟨hpresence, hfloor, -, -, -⟩ := hkept h
  have hstack := revoke_stack (setStanding h .fenced none s) h
  generalize hm : Machine.revoke h (setStanding h .fenced none s) = m at hrevoked hpresence hfloor hstack
  have hplaced : OthersFit h (placeFenced h (flush h m)) :=
    (hrevoked.setHost (x := { m.host h with queue := [], overflow := false }) hrevoked.strikes).setHost
      (by simpa [flush] using hrevoked.strikes)
  have hown : (placeFenced h (flush h m)).host h =
      { m.host h with queue := [.fenced (m.host h).strikes], overflow := false } := by
    simp [placeFenced, HostContext.enqueue, Config.queueDepth]
  obtain ⟨htold, hhost⟩ := hplaced.placeAll_others (.hostFenced h)
  have hfenced : PresenceConsistent (Machine.dropSession h
      (placeAll (fun g => decide (g ≠ h)) (.hostFenced h) (placeFenced h (flush h m)))) := by
    refine htold.dropSession.consistent_dropped ⟨⟨?_, ?_, ?_, ?_⟩, ?_⟩ rfl <;> rw [dropSession_host, hhost, hown]
    · simp [hpresence, setStanding]
    · simp [hstack]
    · simp [hfloor, setStanding]
    · exact hrevoked.strikes
    · simp [hpresence, setStanding]
  rw [Machine.fence, hm]
  exact hfenced.of_pool (openWindowsOf_besidePool _ h)

/-- The strike step, and with it the fence (R91). -/
theorem PresenceBut.strikeStep (hs : PresenceBut h s) : PresenceBut h (strikeStep h s) := by
  unfold Machine.strikeStep
  split
  case isFalse => exact hs
  case isTrue hpresent =>
    have hstruck : PresenceBut h (s.setHost h { s.host h with
        strikes := saturate Config.strikeMax (s.host h).strikes 1 }) := by
      refine hs.setHost (x := { s.host h with strikes := saturate Config.strikeMax (s.host h).strikes 1 })
        (HostContext.FitsBut.mk ?_ ?_ ?_ ?_) rfl
      · simp [hpresent]
      · simp [hpresent]
      · exact fun hp => absurd hpresent hp
      · simp [saturate, Config.strikeMax]
    dsimp only
    split
    · exact presenceBut_of_consistent hstruck.othersFit.fence h
    · exact hstruck

/-! ### The other requests and the events -/

/-- A PRESENT host's context replaced by another of a PRESENT host. -/
theorem PresenceConsistent.setHost_present (hs : PresenceConsistent s) {x : HostContext}
    (hpresent : (s.host h).presence = .present) (hx : x.presence = .present) (hstrikes : x.strikes ≤ 7) :
    PresenceConsistent (s.setHost h x) := by
  refine ((presenceBut_of_consistent hs h).setHost (HostContext.fits_of_present hx hstrikes).toFitsBut
    (hx.trans hpresent.symm)).consistent fun hdraining => ?_
  rw [State.host_setHost_same, hx] at hdraining
  cases hdraining

theorem PresenceConsistent.strikes_le (hs : PresenceConsistent s) (h : HostId) : (s.host h).strikes ≤ 7 :=
  ((presenceConsistent_iff.mp hs).1 h).strikes

theorem PresenceConsistent.setFloorRequest (hs : PresenceConsistent s) (hpresent : (s.host h).presence = .present)
    (arg : Byte) : PresenceConsistent (setFloorRequest h arg s).1 := by
  unfold Machine.setFloorRequest
  split
  · exact hs.setHost_present hpresent hpresent (hs.strikes_le h)
  · exact hs

theorem PresenceConsistent.claimRequest (hs : PresenceConsistent s) (hpresent : (s.host h).presence = .present) :
    PresenceConsistent (claimRequest h s).1 := by
  unfold Machine.claimRequest
  split
  case h_2 => exact hs
  case h_1 u _ =>
    split
    case h_2 => exact hs
    case h_1 c _ =>
      have hclaimed : PresenceConsistent (claimRecord h u c s) := by
        have hpool : PresenceConsistent ((leaveList u c.level s).setRecord u
            { epoch := (s.record u).epoch + 1, timer := .running (s.leaseOf c.origin).toNat
              occ := some { c with phase := .claimed h 0 (s.snapshotOf c.origin) } }) := hs
        exact hpool.setHost_present hpresent hpresent (hs.strikes_le h)
      dsimp only
      rw [takeClaim_eq]
      refine hclaimed.of_pool ?_
      cases c.origin with
      | line n => rfl
      | posted n => rfl
      | group g => exact fireStandingMembers_besidePool _ g

theorem PresenceConsistent.extendRequest (hs : PresenceConsistent s) (tag epoch : Byte) :
    PresenceConsistent (extendRequest h tag epoch s).1 := by
  unfold Machine.extendRequest
  split
  · exact hs
  · dsimp only
    split <;> exact hs

theorem PresenceConsistent.completeRequest (hs : PresenceConsistent s) (h : HostId) (tag epoch : Byte) :
    PresenceConsistent (completeRequest h tag epoch s).1 := by
  unfold Machine.completeRequest
  split
  case h_1 => exact hs
  case h_2 u c _ =>
    have hremoved := (presenceBut_of_consistent hs h).removeEntry u
    have hstruck : PresenceBut h (clearStrikes h (removeEntry h u s)) :=
      hremoved.setHost ⟨hremoved.own.absent, hremoved.own.fenced, hremoved.own.floor, Nat.zero_le 7⟩ rfl
    dsimp only
    split
    · refine (hstruck.of_pool ?_).drainCheck
      simp [rearm]
    · have hfreed := PresenceBut.of_pool (freeRecord_besidePool _ u) hstruck
      refine PresenceBut.drainCheck ?_
      unfold noticePostedDone
      split
      · split
        · exact hfreed.place _ _
        · exact hfreed
      · exact hfreed

theorem PresenceConsistent.handbackRequest (hs : PresenceConsistent s) (h : HostId) (tag epoch : Byte) :
    PresenceConsistent (handbackRequest h tag epoch s).1 := by
  unfold Machine.handbackRequest
  split
  · exact hs
  · exact (((presenceBut_of_consistent hs h).removeEntry _).returnRecord _ h).drainCheck

theorem PresenceConsistent.raiseRequest (hs : PresenceConsistent s) (source : Byte) (payload : BitVec 16)
    (notify : Byte) : PresenceConsistent (raiseRequest h source payload notify s).1 := by
  unfold Machine.raiseRequest
  split
  · split
    · split
      · exact hs
      · split
        · exact hs.of_pool (createRecord_besidePool _ _ _ _ _ _)
        · exact hs
    · exact hs
  · exact hs

theorem PresenceConsistent.takeNoticeRequest (hs : PresenceConsistent s) (h : HostId) :
    PresenceConsistent (takeNoticeRequest h s).1 := by
  have hfits := (presenceConsistent_iff.mp hs).1 h
  have taken : ∀ q : List Notice, q.length ≤ (s.host h).queue.length →
      PresenceConsistent (s.setHost h { s.host h with queue := q, overflow := false }) := fun q hq => by
    refine ((presenceBut_of_consistent hs h).setHost
      (x := { s.host h with queue := q, overflow := false }) ⟨?_, ?_, hfits.floor, hfits.strikes⟩
      rfl).consistent ?_
    · intro hp
      obtain ⟨hstack, hqueue, -⟩ := hfits.absent hp
      exact ⟨hstack, List.length_eq_zero_iff.mp (by simpa [hqueue] using hq), rfl⟩
    · intro hp
      obtain ⟨hstack, hqueue, -⟩ := hfits.fenced hp
      exact ⟨hstack, hq.trans hqueue, rfl⟩
    · simpa using hfits.draining
  unfold Machine.takeNoticeRequest
  dsimp only
  split
  case h_1 n rest hq => exact taken rest (by simp [hq])
  case h_2 hq => exact taken (s.host h).queue le_rfl

theorem PresenceConsistent.session (hs : PresenceConsistent s) {x : Option Session}
    (hx : ∀ y, x = some y → (s.host y.holder).presence = .present) : PresenceConsistent { s with session := x } := by
  obtain ⟨hfits, -⟩ := presenceConsistent_iff.mp hs
  exact presenceConsistent_iff.mpr ⟨hfits, fun y hy => .inr (hx y hy)⟩

theorem PresenceConsistent.withSession (hs : PresenceConsistent s) (h : HostId)
    {act : Session → State → State × Answer}
    (hact : ∀ x t, x.holder = h → (t.host h).presence = .present → PresenceConsistent t → PresenceConsistent (act x t).1) :
    PresenceConsistent (withSession h s act).1 := by
  unfold Machine.withSession
  split
  case h_1 x hx =>
    have hpresent := ((presenceConsistent_iff.mp hs).2 x hx).resolve_left nofun
    split
    case isTrue hholder =>
      refine hact _ _ hholder (hholder ▸ hpresent) (hs.session fun y hy => ?_)
      cases hy
      exact hpresent
    case isFalse => exact hs
  case h_2 => exact hs

theorem PresenceConsistent.openSessionRequest (hs : PresenceConsistent s) (hpresent : (s.host h).presence = .present) :
    PresenceConsistent (openSessionRequest h s).1 := by
  unfold Machine.openSessionRequest
  split
  · exact hs.session fun y hy => by cases hy; exact hpresent
  · split
    · exact hs.session fun y hy => by cases hy; simpa [‹_ = h›] using hpresent
    · exact hs

theorem PresenceConsistent.stageRequest (hs : PresenceConsistent s) (h : HostId) (entry : Option StagedEntry) :
    PresenceConsistent (stageRequest h entry s).1 := by
  refine hs.withSession h fun x t hholder hpresent ht => ?_
  split
  · exact ht
  · split
    · exact ht.session fun y hy => by cases hy; simpa [hholder] using hpresent
    · exact ht

theorem PresenceConsistent.placeAll (hs : PresenceConsistent s) (who : HostId → Bool) (n : Notice) :
    PresenceConsistent (placeAll who n s) := by
  unfold Machine.placeAll
  induction hostIds generalizing s with
  | nil => exact hs
  | cons g l ih =>
    rw [List.foldl_cons]
    apply ih
    split
    · exact hs.place g n
    · exact hs

/-! What a committed entry changes stands in the pool, or in the policy. -/

@[simp] theorem leaveCollect_besidePool (n : LineId) (o : Option GroupId) (s : State) :
    (leaveCollect n o s).besidePool = s.besidePool := by
  cases o <;> rfl

@[simp] theorem commitTerms_besidePool (o : Origin) (old new : Terms) (s : State) :
    (commitTerms o old new s).besidePool = s.besidePool := by
  unfold commitTerms
  dsimp only
  split <;> split <;> simp

@[simp] theorem commitMembership_besidePool (n : LineId) (old new : SourceDescriptor) (s : State) :
    (commitMembership n old new s).besidePool = s.besidePool := by
  unfold commitMembership
  dsimp only
  repeat' split
  all_goals simp

@[simp] theorem commitStarved_besidePool (n : LineId) (old new : SourceDescriptor) (s : State) :
    (commitStarved n old new s).besidePool = s.besidePool := by
  unfold commitStarved
  repeat' split
  all_goals simp

@[simp] theorem retakeReference_besidePool (n : LineId) (s : State) :
    (retakeReference n s).besidePool = s.besidePool := by
  unfold retakeReference
  split <;> rfl

@[simp] theorem commitFiring_besidePool (n : LineId) (old new : SourceDescriptor) (s : State) :
    (commitFiring n old new s).besidePool = s.besidePool := by
  unfold commitFiring
  split <;> simp

theorem applyLine_besidePool (n : LineId) (new : SourceDescriptor) (s : State) :
    (applyLine n new s).besidePool = s.besidePool := by
  simp [applyLine]

theorem applyPosted_besidePool (n : PostedId) (new : SourceDescriptor) (s : State) :
    (applyPosted n new s).besidePool = s.besidePool := by
  unfold applyPosted
  dsimp only
  split <;> simp

theorem applyGroup_besidePool (l : List StagedEntry) (g : GroupId) (new : GroupDescriptor) (s : State) :
    (applyGroup l g new s).besidePool = s.besidePool := by
  unfold applyGroup disableGroup
  dsimp only
  split <;> split <;> simp

theorem applyEntry_hosts (l : List StagedEntry) (s : State) (e : StagedEntry) :
    (applyEntry l s e).hosts = s.hosts ∧ (applyEntry l s e).session = s.session := by
  have of_pool : ∀ t : State, t.besidePool = s.besidePool → t.hosts = s.hosts ∧ t.session = s.session :=
    fun _ hb => ⟨State.hosts_of_pool hb, State.session_of_pool hb⟩
  cases e with
  | line n d => exact of_pool _ (applyLine_besidePool n d s)
  | posted n d => exact of_pool _ (applyPosted_besidePool n d s)
  | group g d => exact of_pool _ (applyGroup_besidePool l g d s)
  | policy p => exact ⟨rfl, rfl⟩

theorem PresenceConsistent.commitRequest (hs : PresenceConsistent s) (h : HostId) :
    PresenceConsistent (commitRequest h s).1 := by
  refine hs.withSession h fun x t _ _ ht => ?_
  split
  · exact ht
  · have hentries : ∀ (es : List StagedEntry) (m : State), PresenceConsistent m →
        PresenceConsistent (es.foldl (applyEntry x.staging) m) := by
      intro es
      induction es with
      | nil => exact fun m hm => hm
      | cons e es ih =>
        exact fun m hm => ih _ (hm.of_same (applyEntry_hosts x.staging m e).1 (applyEntry_hosts x.staging m e).2)
    exact ((hentries x.staging t ht).session fun y hy => by cases hy).placeAll _ _

theorem present_of_admitted {req : Request} {p : Presence} (hreq : admissionOf req = .presentOnly)
    (hadmitted : refusal (admissionOf req) p = none) : p = .present := by
  rw [hreq] at hadmitted
  cases p <;> first | rfl | cases hadmitted

theorem PresenceConsistent.settleAnswered {r : State × Answer} (hr : PresenceConsistent r.1) :
    PresenceConsistent (settleAnswered r).1 := by
  unfold Machine.settleAnswered
  split <;> exact hr

theorem PresenceConsistent.performRequest (hs : PresenceConsistent s) (h : HostId) (req : Request)
    (hadmitted : refusal (admissionOf req) (s.host h).presence = none) :
    PresenceConsistent (performRequest h req s).1 := by
  cases req with
  | join => exact (hs.joinRequest h).settleAnswered
  | leave manner => exact (hs.leaveRequest h manner).settleAnswered
  | setFloor floor => exact (hs.setFloorRequest (present_of_admitted rfl hadmitted) floor).settleAnswered
  | claim => exact (hs.claimRequest (present_of_admitted rfl hadmitted)).settleAnswered
  | complete tag epoch => exact (hs.completeRequest h tag epoch).settleAnswered
  | handback tag epoch => exact (hs.handbackRequest h tag epoch).settleAnswered
  | raise source payload notify => exact (hs.raiseRequest source payload notify).settleAnswered
  | takeNotice => exact (hs.takeNoticeRequest h).settleAnswered
  | commit => exact (hs.commitRequest h).settleAnswered
  | extend tag epoch => exact hs.extendRequest tag epoch
  | openSession => exact hs.openSessionRequest (present_of_admitted rfl hadmitted)
  | stageSource source d => exact hs.stageRequest h _
  | stageGroup group d => exact hs.stageRequest h _
  | stagePolicy p => exact hs.stageRequest h _
  | discard => exact hs.withSession h fun _ _ _ _ ht => ht.session fun y hy => by cases hy
  | peek => exact hs
  | readPolicy => exact hs
  | readRecord tag => exact (readRecordRequest_unchanged s tag).symm ▸ hs
  | readSource source => exact (readSourceRequest_unchanged s source).symm ▸ hs
  | readGroup group => exact (readGroupRequest_unchanged s group).symm ▸ hs

theorem PresenceConsistent.expireLease (hs : PresenceConsistent s) (u : Tag) (h : HostId) (c : Occurrence) :
    PresenceConsistent (expireLease u h c s) :=
  (((((presenceBut_of_consistent hs h).removeEntry u).place h _).returnRecord u h).strikeStep).drainCheck

theorem deliverLineChange_besidePool (s : State) (n : LineId) (f : LineFilter) :
    (deliverLineChange n f s).besidePool = s.besidePool := by
  unfold deliverLineChange judgeLineChange
  dsimp only
  repeat' split
  all_goals simp

theorem PresenceConsistent.deliver (hs : PresenceConsistent s) (e : DueEvent) : PresenceConsistent (deliver e s) := by
  have settled : ∀ m, PresenceConsistent m → PresenceConsistent (settle m) := fun m hm => hm
  cases e with
  | line n =>
    change PresenceConsistent (lineEvent n s)
    unfold lineEvent
    split
    · split
      · exact settled _ (hs.of_pool (deliverLineChange_besidePool s n _))
      · exact hs
    · exact hs
  | window u =>
    change PresenceConsistent (windowEvent u s)
    unfold windowEvent
    split
    · split
      · exact settled _ (hs.of_pool (openRecord_besidePool s u))
      · exact hs
    · exact hs
  | lease u =>
    change PresenceConsistent (leaseEvent u s)
    unfold leaseEvent
    split
    · split
      · exact settled _ (hs.expireLease u _ _)
      · exact hs
    · exact hs
  | session =>
    change PresenceConsistent (sessionEvent s)
    unfold sessionEvent
    split
    · split
      · exact settled _ ((hs.session fun y hy => by cases hy).place _ _)
      · exact hs
    · exact hs
  | seedTest n => exact settled _ (hs.of_pool (levelTest_besidePool s n))

theorem presenceConsistent_resetBlocks (s : State) : PresenceConsistent (resetBlocks s) := by
  refine presenceConsistent_iff.mpr ⟨fun h => ?_, fun x hx => ?_⟩
  · rw [State.host_resetBlocks]
    exact HostContext.fits_of_absent rfl rfl rfl rfl rfl (Nat.zero_le 7)
  · cases hx

theorem PresenceConsistent.sample (hs : PresenceConsistent s) (levels : BitVec 48) :
    PresenceConsistent (sampleLines levels (countTimers s)) := by
  obtain ⟨hfits, hholder⟩ := presenceConsistent_iff.mp hs
  refine presenceConsistent_iff.mpr ⟨hfits, fun x hx => .inr ?_⟩
  change s.session.map (fun x => { x with timer := x.timer.tick }) = some x at hx
  obtain ⟨y, hy, rfl⟩ := Option.map_eq_some_iff.mp hx
  exact (hholder y hy).resolve_left nofun

theorem stepClosed_presenceConsistent : StepClosed PresenceConsistent where
  core s t hcore hs := by
    obtain ⟨-, -, -, -, -, hhosts, hsession, -⟩ := State.tables_of_core hcore
    exact hs.of_same hhosts hsession
  reset := presenceConsistent_resetBlocks
  sample levels _ hs := hs.sample levels
  event e _ hs := hs.deliver e
  request h req s hs := by
    obtain ⟨code, -, he⟩ | ⟨hadmitted, he⟩ := carryOut_cases s h req <;> rw [he]
    · exact hs
    · exact hs.performRequest h req hadmitted

/-- Settles O56: a host that changes its presence gives up what the new presence does not allow. -/
theorem presenceStaysConsistent : Obligations.PresenceStaysConsistent :=
  fun _ _ hs hstep => stepClosed_presenceConsistent.step hs hstep

end Sys2Proof.Machine
end

section
/-! The committed and the staged configuration (O59): what a commit makes of the descriptors, and that nothing else
touches them. -/

namespace Sys2Proof.Machine

variable {s t : State}

/-! ### The descriptors through returns and revocations -/

@[simp] theorem descs_place (s : State) (h : HostId) (n : Notice) : (place h n s).descs = s.descs := by
  obtain ⟨-, he⟩ | ⟨-, he⟩ := place_cases s h n
  · rw [he]; rfl
  · rw [he]

theorem returnClosed_descs (u : Tag)
    (d : (LineId → SourceDescriptor) × (PostedId → SourceDescriptor) × (GroupId → GroupDescriptor)) :
    ReturnClosed u (fun s => s.descs = d) (fun s => s.descs = d) where
  pool := poolClosed_descs d
  notice _ _ hs := (descs_place _ _ _).trans hs
  timer _ hs := hs
  group x hx _ hs := (State.descs_setGroup _ _ x hx).trans hs
  mark n hs := (descs_setLineStarved _ n none).trans hs
  merge _ _ _ _ _ _ hs := hs
  opens _ hs := (descs_openRecord _ _).trans hs
  free _ _ hs := (descs_freeRecord _ _).trans hs
  enter _ _ _ _ hs := hs

@[simp] theorem descs_returnRecord (s : State) (u : Tag) (h : HostId) : (returnRecord u h s).1.descs = s.descs :=
  (returnClosed_descs u s.descs).returnRecord_any rfl h

@[simp] theorem descs_revoke (s : State) (h : HostId) : (revoke h s).descs = s.descs := by
  unfold revoke
  generalize (s.host h).stack = l
  induction l generalizing s with
  | nil => rfl
  | cons e l ih => exact (ih _).trans (descs_returnRecord _ _ _)

@[simp] theorem descs_rearm (s : State) (u : Tag) (c : Occurrence) : (rearm u c s).descs = s.descs := by
  simp [rearm]

/-! ### The descriptors through a commit -/

@[simp] theorem descs_withdraw (s : State) (o : Origin) : (withdraw o s).descs = s.descs :=
  PoolClosed.withdraw (P := fun t => t.descs = s.descs) (fun _ u _ hs => (descs_freeRecord _ u).trans hs) rfl o

@[simp] theorem descs_openOrigin (s : State) (o : Origin) : (openOrigin o s).descs = s.descs := by
  unfold openOrigin
  split
  · exact descs_openRecord _ _
  · rfl

@[simp] theorem descs_moveLevel (s : State) (o : Origin) (l : Level) : (moveLevel o l s).descs = s.descs := by
  unfold moveLevel
  split
  · split <;> rfl
  · rfl

@[simp] theorem descs_commitTerms (s : State) (o : Origin) (old new : Terms) :
    (commitTerms o old new s).descs = s.descs := by
  unfold commitTerms
  dsimp only
  split <;> split <;> simp

@[simp] theorem descs_commitMembership (s : State) (n : LineId) (old new : SourceDescriptor) :
    (commitMembership n old new s).descs = s.descs :=
  (poolClosed_descs s.descs).commitMembership (fun _ u _ hs => (descs_freeRecord _ u).trans hs) n old new rfl

@[simp] theorem descs_commitStarved (s : State) (n : LineId) (old new : SourceDescriptor) :
    (commitStarved n old new s).descs = s.descs := by
  unfold commitStarved
  repeat' split
  all_goals simp

@[simp] theorem descs_retakeReference (s : State) (n : LineId) : (retakeReference n s).descs = s.descs := by
  unfold retakeReference
  split
  · exact State.descs_setLine _ _ _ rfl
  · rfl

@[simp] theorem descs_commitFiring (s : State) (n : LineId) (old new : SourceDescriptor) :
    (commitFiring n old new s).descs = s.descs := by
  unfold commitFiring
  split <;> simp

theorem descs_applyLine (s : State) (n : LineId) (new : SourceDescriptor) :
    (applyLine n new s).descs = (s.setLine n { s.line n with desc := new }).descs := by
  simp [applyLine]

theorem descs_applyPosted (s : State) (n : PostedId) (new : SourceDescriptor) :
    (applyPosted n new s).descs = (s.setPosted n { s.posted n with desc := new }).descs := by
  unfold applyPosted
  dsimp only
  split <;> simp

theorem descs_disableGroup (s : State) (g : GroupId) : (disableGroup g s).descs = s.descs :=
  (State.descs_setGroup _ g { (withdraw (.group g) s).group g with collect := [], starved := false } rfl).trans
    (descs_withdraw s (.group g))

theorem descs_applyGroup (s : State) (l : List StagedEntry) (g : GroupId) (new : GroupDescriptor) :
    (applyGroup l g new s).descs = (s.setGroup g { s.group g with desc := new }).descs := by
  unfold applyGroup
  dsimp only
  split <;> split <;> simp [descs_disableGroup]

/-! An applied entry sets the descriptor that it names and no other. -/

theorem line_desc_applyEntry (l : List StagedEntry) (s : State) (e : StagedEntry) (n : LineId) :
    ((applyEntry l s e).line n).desc = (stagedLine n [e]).getD (s.line n).desc := by
  cases e with
  | line m d =>
    refine (State.line_desc_of_descs (descs_applyLine s m d) n).trans ?_
    by_cases hm : m = n
    · subst hm; simp [stagedLine]
    · simp [stagedLine, hm, Ne.symm hm]
  | posted m d => exact State.line_desc_of_descs (descs_applyPosted s m d) n
  | group g d => exact State.line_desc_of_descs (descs_applyGroup s l g d) n
  | policy p => rfl

theorem posted_desc_applyEntry (l : List StagedEntry) (s : State) (e : StagedEntry) (n : PostedId) :
    (∃ d, e = .posted n d ∧ ((applyEntry l s e).posted n).desc = d) ∨
      (∀ d, e ≠ .posted n d) ∧ ((applyEntry l s e).posted n).desc = (s.posted n).desc := by
  cases e with
  | line m d => exact .inr ⟨nofun, State.posted_desc_of_descs (descs_applyLine s m d) n⟩
  | posted m d =>
    have hdesc : ((applyEntry l s (.posted m d)).posted n).desc = _ :=
      State.posted_desc_of_descs (descs_applyPosted s m d) n
    by_cases hm : m = n
    · subst hm; exact .inl ⟨d, rfl, by simpa using hdesc⟩
    · exact .inr ⟨by simp [hm], by simpa [Ne.symm hm] using hdesc⟩
  | group g d => exact .inr ⟨nofun, State.posted_desc_of_descs (descs_applyGroup s l g d) n⟩
  | policy p => exact .inr ⟨nofun, rfl⟩

theorem group_desc_applyEntry (l : List StagedEntry) (s : State) (e : StagedEntry) (g : GroupId) :
    (∃ d, e = .group g d ∧ ((applyEntry l s e).group g).desc = d) ∨
      (∀ d, e ≠ .group g d) ∧ ((applyEntry l s e).group g).desc = (s.group g).desc := by
  cases e with
  | line m d => exact .inr ⟨nofun, State.group_desc_of_descs (descs_applyLine s m d) g⟩
  | posted m d => exact .inr ⟨nofun, State.group_desc_of_descs (descs_applyPosted s m d) g⟩
  | group k d =>
    have hdesc : ((applyEntry l s (.group k d)).group g).desc = _ :=
      State.group_desc_of_descs (descs_applyGroup s l k d) g
    by_cases hk : k = g
    · subst hk; exact .inl ⟨d, rfl, by simpa using hdesc⟩
    · exact .inr ⟨by simp [hk], by simpa [Ne.symm hk] using hdesc⟩
  | policy p => exact .inr ⟨nofun, rfl⟩

theorem policy_of_besidePool (hb : t.besidePool = s.besidePool) : t.policy = s.policy := by
  simp only [State.besidePool, Prod.mk.injEq] at hb
  exact hb.2.2.2.2.2.2.2.2.1

theorem policy_applyEntry (l : List StagedEntry) (s : State) (e : StagedEntry) :
    (∃ p, e = .policy p ∧ (applyEntry l s e).policy = p) ∨
      (∀ p, e ≠ .policy p) ∧ (applyEntry l s e).policy = s.policy := by
  cases e with
  | line m d => exact .inr ⟨nofun, policy_of_besidePool (applyLine_besidePool m d s)⟩
  | posted m d => exact .inr ⟨nofun, policy_of_besidePool (applyPosted_besidePool m d s)⟩
  | group g d => exact .inr ⟨nofun, policy_of_besidePool (applyGroup_besidePool l g d s)⟩
  | policy p => exact .inl ⟨p, rfl, rfl⟩

/-! ### The staged entries of one target -/

/-- No two entries of a staging list have the same target (R158). -/
abbrev TargetsApart (l : List StagedEntry) : Prop := l.Pairwise (fun a b => a.sameTarget b = false)

theorem stagedLine_append (n : LineId) (l l' : List StagedEntry) :
    stagedLine n (l ++ l') = (stagedLine n l).or (stagedLine n l') := by
  induction l with
  | nil => simp [stagedLine]
  | cons e l ih =>
    cases e with
    | line m d =>
      by_cases hm : m = n
      · simp [stagedLine, hm]
      · simpa [stagedLine, hm] using ih
    | posted _ _ => exact ih
    | group _ _ => exact ih
    | policy _ => exact ih

theorem mem_of_stagedLine {n : LineId} {l : List StagedEntry} {d : SourceDescriptor} (h : stagedLine n l = some d) :
    .line n d ∈ l := by
  induction l with
  | nil => cases h
  | cons e l ih =>
    cases e with
    | line m d' =>
      by_cases hm : m = n
      · subst hm
        obtain rfl : d' = d := by simpa [stagedLine] using h
        exact List.mem_cons_self
      · exact List.mem_cons_of_mem _ (ih (by simpa [stagedLine, hm] using h))
    | posted _ _ => exact List.mem_cons_of_mem _ (ih h)
    | group _ _ => exact List.mem_cons_of_mem _ (ih h)
    | policy _ => exact List.mem_cons_of_mem _ (ih h)

/-- The descriptor of a line source once the entries are applied: its staged one, or the one that it had (R163). -/
theorem line_desc_applyEntries (l : List StagedEntry) (n : LineId) (es : List StagedEntry) (hes : TargetsApart es)
    (s : State) : ((es.foldl (applyEntry l) s).line n).desc = (stagedLine n es).getD (s.line n).desc := by
  induction es generalizing s with
  | nil => rfl
  | cons e es ih =>
    obtain ⟨hapart, hes⟩ := List.pairwise_cons.mp hes
    rw [List.foldl_cons, ih hes, line_desc_applyEntry, ← List.singleton_append (l := es), stagedLine_append]
    cases hd : stagedLine n es with
    | none => simp
    | some d =>
      suffices hnone : stagedLine n [e] = none by simp [hnone]
      cases he : stagedLine n [e] with
      | none => rfl
      | some d' =>
        obtain rfl := List.mem_singleton.mp (mem_of_stagedLine he)
        simpa [StagedEntry.sameTarget] using hapart _ (mem_of_stagedLine hd)

/-! ### A commit that passes its checks -/

theorem firstFailure_eq_none_iff (s : State) (l es : List StagedEntry) (i : Nat) :
    s.firstFailure l i es = none ↔ ∀ e ∈ es, s.entryFailure l e = none := by
  induction es generalizing i with
  | nil => simp [State.firstFailure]
  | cons e es ih =>
    unfold State.firstFailure
    cases he : s.entryFailure l e with
    | some why => simp [he]
    | none => simp [he, ih]

theorem entryFailure_posted {l : List StagedEntry} {n : PostedId} {d : SourceDescriptor}
    (h : s.entryFailure l (.posted n d) = none) : d.group = none := by
  have hunfold : s.entryFailure l (.posted n d) =
      if s.movesToFull l (s.posted n).desc.group d.group then some .groupFull
      else if d.group.isSome then some .postedGroup else none := rfl
  rw [hunfold] at h
  split at h
  · cases h
  · split at h
    · cases h
    case isFalse hnone => simpa using hnone

theorem State.mem_membersOf (s : State) (g : GroupId) (n : LineId) :
    n ∈ s.membersOf g ↔ (s.line n).desc.group = some g := by
  simp [State.membersOf, lineIds]

/-- A group is not filled past its size: the entry that would have been refused (R163). -/
theorem members_le_of_checked {l : List StagedEntry} {g : GroupId} (hold : (s.membersOf g).length ≤ 8)
    (hchecked : ∀ e ∈ l, s.entryFailure l e = none)
    (hdesc : ∀ n, (t.line n).desc = (stagedLine n l).getD (s.line n).desc) : (t.membersOf g).length ≤ 8 := by
  have hgroup : ∀ n, (t.line n).desc.group = s.groupAfter l n := fun n => by
    rw [hdesc, State.groupAfter]
    cases stagedLine n l <;> rfl
  by_contra hfull
  have hoverfull : s.overfull l g = true := by
    simp only [State.membersOf, hgroup] at hfull
    simp only [State.overfull, List.countP_eq_length_filter, Config.groupCapacity]
    exact decide_eq_true (Nat.lt_of_not_le hfull)
  have hgrown : ¬ ∀ n, n ∈ t.membersOf g → n ∈ s.membersOf g := fun hsub => by
    have hle := List.Nodup.length_le_of_subset (l₁ := t.membersOf g) ((List.nodup_finRange 48).filter _) fun n => hsub n
    omega
  push Not at hgrown
  obtain ⟨n, hnew, hnot⟩ := hgrown
  rw [State.mem_membersOf] at hnew hnot
  cases hd : stagedLine n l with
  | none => rw [hdesc, hd] at hnew; exact hnot hnew
  | some d =>
    have hto : d.group = some g := by simpa [hdesc, hd] using hnew
    have hpassed := hchecked _ (mem_of_stagedLine hd)
    simp [State.entryFailure, State.movesToFull, hto, hnot, hoverfull] at hpassed

/-! ### The ranges -/

/-- The staging list of a session is legal (R158 to R160). -/
def StagingLegal (l : List StagedEntry) : Prop :=
  l.length ≤ 8 ∧ TargetsApart l ∧ ∀ e ∈ l, StagedInRange e

/-- The committed records within their ranges (R98, R110, R159 to R161). -/
structure CommittedInRange (s : State) : Prop where
  line : ∀ n, LineInRange (s.line n).desc
  posted : ∀ n, PostedInRange (s.posted n).desc ∧ (s.posted n).desc.group = none
  group : ∀ g, (s.group g).desc.terms.route ≠ 0
  policy : PolicyInRange s.policy

theorem configurationLegal_iff : ConfigurationLegal s ↔
    CommittedInRange s ∧ (∀ g, (s.membersOf g).length ≤ 8) ∧ ∀ x, s.session = some x → StagingLegal x.staging :=
  ⟨fun ⟨hline, hposted, hgroup, hpolicy, hmembers, hsession⟩ => ⟨⟨hline, hposted, hgroup, hpolicy⟩, hmembers, hsession⟩,
    fun ⟨⟨hline, hposted, hgroup, hpolicy⟩, hmembers, hsession⟩ => ⟨hline, hposted, hgroup, hpolicy, hmembers, hsession⟩⟩

theorem CommittedInRange.applyEntry (hs : CommittedInRange s) {e : StagedEntry} (he : StagedInRange e)
    (hposted : ∀ n d, e = .posted n d → d.group = none) (l : List StagedEntry) : CommittedInRange (applyEntry l s e) where
  line n := by
    rw [line_desc_applyEntry]
    cases hd : stagedLine n [e] with
    | none => exact hs.line n
    | some d => obtain rfl := List.mem_singleton.mp (mem_of_stagedLine hd); exact he
  posted n := by
    obtain ⟨d, rfl, hd⟩ | ⟨-, hd⟩ := posted_desc_applyEntry l s e n <;> rw [hd]
    · exact ⟨he, hposted n d rfl⟩
    · exact hs.posted n
  group g := by
    obtain ⟨d, rfl, hd⟩ | ⟨-, hd⟩ := group_desc_applyEntry l s e g <;> rw [hd]
    · exact he
    · exact hs.group g
  policy := by
    obtain ⟨p, rfl, hp⟩ | ⟨-, hp⟩ := policy_applyEntry l s e <;> rw [hp]
    · exact he
    · exact hs.policy

theorem CommittedInRange.applyEntries (l : List StagedEntry) (es : List StagedEntry)
    (hrange : ∀ e ∈ es, StagedInRange e) (hposted : ∀ n d, .posted n d ∈ es → d.group = none) (s : State)
    (hs : CommittedInRange s) : CommittedInRange (es.foldl (Machine.applyEntry l) s) := by
  induction es generalizing s with
  | nil => exact hs
  | cons e es ih =>
    refine ih (fun f hf => hrange f (List.mem_cons_of_mem _ hf)) (fun n d hd => hposted n d (List.mem_cons_of_mem _ hd)) _ ?_
    exact hs.applyEntry (hrange e List.mem_cons_self) (fun n d he => hposted n d (he ▸ List.mem_cons_self)) l

theorem ConfigurationLegal.of_same (hs : ConfigurationLegal s) (hdescs : t.descs = s.descs) (hpolicy : t.policy = s.policy)
    (hsession : SessionKept s t) : ConfigurationLegal t := by
  obtain ⟨⟨hline, hposted, hgroup, hp⟩, hmembers, hstaging⟩ := configurationLegal_iff.mp hs
  refine configurationLegal_iff.mpr ⟨⟨fun n => ?_, fun n => ?_, fun g => ?_, ?_⟩, fun g => ?_, fun x hx => ?_⟩
  · rw [State.line_desc_of_descs hdescs]; exact hline n
  · rw [State.posted_desc_of_descs hdescs]; exact hposted n
  · rw [State.group_desc_of_descs hdescs]; exact hgroup g
  · rw [hpolicy]; exact hp
  · rw [State.membersOf_of_descs hdescs]; exact hmembers g
  · obtain ⟨y, hy, hsame⟩ := hsession x hx
    exact hsame ▸ hstaging y hy

theorem ConfigurationLegal.of_tables (hs : ConfigurationLegal s) (hl : t.lineSources = s.lineSources)
    (hp : t.postedSources = s.postedSources) (hg : t.groups = s.groups) (hpolicy : t.policy = s.policy)
    (hsession : SessionKept s t) : ConfigurationLegal t :=
  hs.of_same (State.descs_ext (fun n => by rw [State.line, hl, State.line])
    (fun n => by rw [State.posted, hp, State.posted]) fun g => by rw [State.group, hg, State.group]) hpolicy hsession

theorem ConfigurationLegal.of_pool (hs : ConfigurationLegal s) (hdescs : t.descs = s.descs)
    (hb : t.besidePool = s.besidePool) : ConfigurationLegal t :=
  hs.of_same hdescs (policy_of_besidePool hb) (.of_eq (State.session_of_pool hb))

theorem policy_of_besideHosts (hb : t.besideHosts = s.besideHosts) : t.policy = s.policy := by
  simp only [State.besideHosts, Prod.mk.injEq] at hb
  exact hb.2.2.2.2.2.2.1

/-- Neither an event nor a request that configures nothing reaches the configuration. -/
theorem actionClosed_configurationLegal : ActionClosed ConfigurationLegal where
  pool := {
    create := fun o m p e _ hs => hs.of_pool (descs_createRecord _ _ o m p e) (createRecord_besidePool _ _ o m p e)
    merge := fun k _ hs => hs.of_pool (descs_mergeInto _ _ k) (mergeInto_besidePool _ _ k)
    again := fun hs => hs.of_pool (descs_setAgain _ _) (setAgain_besidePool _ _)
    group := fun x hx _ hs => hs.of_pool (State.descs_setGroup _ _ x hx) rfl
    mark := fun x _ hs => hs.of_pool (descs_setLineStarved _ _ x) rfl }
  rest s t hl hp hg _ _ _ hpolicy _ hsession hs := by
    exact hs.of_tables hl hp hg hpolicy hsession
  context _ _ _ hs := hs
  filter _ hs := hs.of_pool (State.descs_setLine _ _ _ rfl) rfl
  opens hs := hs.of_pool (descs_openRecord _ _) (openRecord_besidePool _ _)
  move o l hs := hs.of_pool (descs_moveLevel _ o l) (moveLevel_besidePool _ o l)
  withdraw _ hs := hs.of_pool (descs_freeRecord _ _) (freeRecord_besidePool _ _)
  claim _ _ hs := hs
  extend _ _ _ hs := hs
  free {s h u c} _ hs :=
    ConfigurationLegal.of_pool (s := removeEntry h u s) hs (descs_freeRecord _ _) (freeRecord_besidePool _ _)
  rearm {s h u c} _ hs := ConfigurationLegal.of_pool (s := removeEntry h u s) hs (descs_rearm _ _ _) (by simp [rearm])
  back {s h u c} _ hs := by
    obtain ⟨hbeside, hsession, -⟩ := returnRecord_keeps (removeEntry h u s) u h
    exact ConfigurationLegal.of_same hs (descs_returnRecord _ _ _) (policy_of_besideHosts hbeside) (.of_eq hsession)
  revoke h hs := by
    obtain ⟨hbeside, hsession, -⟩ := revoke_keeps _ h
    exact hs.of_same (descs_revoke _ h) (policy_of_besideHosts hbeside) (.of_eq hsession)

/-! ### Staging and committing -/

theorem StagedEntry.sameTarget_comm (a b : StagedEntry) : a.sameTarget b = b.sameTarget a := by
  cases a <;> cases b <;> simp [StagedEntry.sameTarget, eq_comm]

theorem StagedEntry.sameTarget_congr {a b c : StagedEntry} (h : a.sameTarget b = true) :
    a.sameTarget c = b.sameTarget c := by
  cases a <;> cases b <;> simp_all [StagedEntry.sameTarget] <;> cases c <;> rfl

/-- What placing an entry does (R158): the entry of its target is replaced, or it joins while fewer than 8 are staged. -/
theorem stageInto_cases {e : StagedEntry} {l l' : List StagedEntry} {i : Nat} (h : stageInto e l = some (i, l')) :
    (∃ before f after, l = before ++ f :: after ∧ l' = before ++ e :: after ∧ f.sameTarget e = true ∧ i = before.length ∧
      ∀ k ∈ before, k.sameTarget e = false) ∨
    ((∀ f ∈ l, f.sameTarget e = false) ∧ l.length < 8 ∧ l' = l ++ [e] ∧ i = l.length) := by
  unfold stageInto at h
  split at h
  case h_1 j hj =>
    obtain ⟨hlt, hsame, hbefore⟩ := List.findIdx?_eq_some_iff_getElem.mp hj
    obtain ⟨rfl, rfl⟩ : j = i ∧ l.set j e = l' := by simpa using h
    refine .inl ⟨l.take j, l[j], l.drop (j + 1), by simp, by rw [List.set_eq_take_append_cons_drop, if_pos hlt], hsame,
      by simp [Nat.le_of_lt hlt], fun k hk => ?_⟩
    obtain ⟨a, ha, rfl⟩ := List.mem_take_iff_getElem.mp hk
    simpa using hbefore a (by omega)
  case h_2 hnone =>
    split at h
    case isTrue hroom =>
      obtain ⟨rfl, rfl⟩ : l.length = i ∧ l ++ [e] = l' := by simpa using h
      exact .inr ⟨by simpa using hnone, hroom, rfl, rfl⟩
    case isFalse => cases h

theorem StagingLegal.stageInto {e : StagedEntry} {l l' : List StagedEntry} {i : Nat} (hl : StagingLegal l)
    (he : StagedInRange e) (h : Machine.stageInto e l = some (i, l')) : StagingLegal l' := by
  obtain ⟨hlen, hapart, hrange⟩ := hl
  obtain ⟨before, f, after, rfl, rfl, hf, -, -⟩ | ⟨hnew, hroom, rfl, -⟩ := stageInto_cases h
  · refine ⟨by simpa using hlen, ?_, fun k hk => ?_⟩
    · obtain ⟨hbefore, hafter, hcross⟩ := List.pairwise_append.mp hapart
      obtain ⟨hfafter, hafter⟩ := List.pairwise_cons.mp hafter
      refine List.pairwise_append.mpr ⟨hbefore, List.pairwise_cons.mpr ⟨fun k hk => ?_, hafter⟩, fun a ha b hb => ?_⟩
      · rw [← StagedEntry.sameTarget_congr hf]; exact hfafter k hk
      · obtain rfl | hb := List.mem_cons.mp hb
        · rw [StagedEntry.sameTarget_comm, ← StagedEntry.sameTarget_congr hf, StagedEntry.sameTarget_comm]
          exact hcross a ha f List.mem_cons_self
        · exact hcross a ha b (List.mem_cons_of_mem _ hb)
    · obtain hk | hk := List.mem_append.mp hk
      · exact hrange k (List.mem_append_left _ hk)
      · obtain rfl | hk := List.mem_cons.mp hk
        · exact he
        · exact hrange k (List.mem_append_right _ (List.mem_cons_of_mem _ hk))
  · refine ⟨by simpa using hroom, List.pairwise_append.mpr ⟨hapart, List.pairwise_singleton _ _, fun a ha b hb => ?_⟩,
      fun k hk => ?_⟩
    · obtain rfl := List.mem_singleton.mp hb; exact hnew a ha
    · obtain hk | hk := List.mem_append.mp hk
      · exact hrange k hk
      · obtain rfl := List.mem_singleton.mp hk; exact he

theorem parseRoute_ne_zero {n : Nat} {r : HostSet} (hn : n < 16) (h : parseRoute n = some r) : r ≠ 0 := by
  unfold parseRoute at h
  split at h
  · cases h
  case isFalse hne =>
    obtain rfl : BitVec.ofNat 4 n = r := by simpa using h
    intro hzero
    have := congrArg BitVec.toNat hzero
    simp [Nat.mod_eq_of_lt hn] at this
    exact hne this

theorem field_lt (b : Byte) (lo width : Nat) : field b lo width < 2 ^ width := Nat.mod_lt _ (Nat.two_pow_pos width)

theorem parseSourceDescriptor_route {v : Table Byte 5} {d : SourceDescriptor} (h : parseSourceDescriptor v = some d) :
    d.terms.route ≠ 0 := by
  simp only [parseSourceDescriptor, Option.bind_eq_bind, Option.bind_eq_some_iff] at h
  obtain ⟨_, -, _, -, r, hr, _, -, _, -, _, -, _, -, _, -, h⟩ := h
  obtain rfl := Option.some.inj h
  exact parseRoute_ne_zero (field_lt _ _ 4) hr

theorem parseStageSource_inRange {source : Byte} {v : Table Byte 5} {e : StagedEntry}
    (h : parseStageSource source v = some e) : StagedInRange e := by
  simp only [parseStageSource, Option.bind_eq_bind, Option.bind_eq_some_iff] at h
  obtain ⟨target, -, d, hd, h⟩ := h
  have hroute := parseSourceDescriptor_route hd
  split at h
  case isTrue hfits =>
    cases target with
    | line n =>
      obtain rfl := Option.some.inj h
      refine ⟨hroute, fun hlevel => ?_⟩
      cases hp : d.clearPolicy with
      | onComplete => rfl
      | onClaim => simp [SourceDescriptor.policyFits, hlevel, hp] at hfits
    | posted n =>
      obtain rfl := Option.some.inj h
      exact ⟨hroute, by simpa [SourceDescriptor.policyFits] using hfits⟩
  case isFalse => cases h

theorem parseStageGroup_inRange {group : Byte} {v : Table Byte 4} {e : StagedEntry}
    (h : parseStageGroup group v = some e) : StagedInRange e := by
  simp only [parseStageGroup, Option.bind_eq_bind, Option.bind_eq_some_iff] at h
  obtain ⟨_, -, _, -, _, -, r, hr, _, -, _, -, h⟩ := h
  obtain rfl := Option.some.inj h
  exact parseRoute_ne_zero (field_lt _ _ 4) hr

theorem parseStagePolicy_inRange {v : Table Byte 12} {e : StagedEntry} (h : parseStagePolicy v = some e) :
    StagedInRange e := by
  simp only [parseStagePolicy, Option.bind_eq_bind, Option.bind_eq_some_iff] at h
  obtain ⟨_, -, _, -, h⟩ := h
  split at h
  · cases h
  case isFalse hok =>
    obtain rfl := Option.some.inj h
    push Not at hok
    obtain ⟨h0, h1, h2, h3, htimeout⟩ := hok
    refine ⟨fun k => ?_, htimeout⟩
    match k with
    | 0 => exact h0
    | 1 => exact h1
    | 2 => exact h2
    | 3 => exact h3

theorem ConfigurationLegal.session (hs : ConfigurationLegal s) {x : Option Session}
    (hx : ∀ y, x = some y → StagingLegal y.staging) : ConfigurationLegal { s with session := x } := by
  obtain ⟨hcommitted, hmembers, -⟩ := configurationLegal_iff.mp hs
  exact configurationLegal_iff.mpr ⟨⟨hcommitted.line, hcommitted.posted, hcommitted.group, hcommitted.policy⟩, hmembers, hx⟩

theorem ConfigurationLegal.staging (hs : ConfigurationLegal s) {x : Session} (hx : s.session = some x) :
    StagingLegal x.staging :=
  (configurationLegal_iff.mp hs).2.2 x hx

theorem ConfigurationLegal.withSession (hs : ConfigurationLegal s) (h : HostId)
    {act : Session → State → State × Answer}
    (hact : ∀ x t, StagingLegal x.staging → ConfigurationLegal t → ConfigurationLegal (act x t).1) :
    ConfigurationLegal (withSession h s act).1 := by
  unfold Machine.withSession
  split
  case h_1 x hx =>
    split
    · have hstaging := hs.staging hx
      exact hact _ _ hstaging (hs.session fun y hy => by cases hy; exact hstaging)
    · exact hs
  case h_2 => exact hs

theorem ConfigurationLegal.openSessionRequest (hs : ConfigurationLegal s) (h : HostId) :
    ConfigurationLegal (openSessionRequest h s).1 := by
  unfold Machine.openSessionRequest
  split
  case h_1 => exact hs.session fun y hy => by cases hy; exact ⟨Nat.zero_le 8, List.Pairwise.nil, nofun⟩
  case h_2 x hx =>
    split
    · have hstaging := hs.staging hx
      exact hs.session fun y hy => by cases hy; exact hstaging
    · exact hs

theorem ConfigurationLegal.stageRequest (hs : ConfigurationLegal s) (h : HostId) {entry : Option StagedEntry}
    (hentry : ∀ e, entry = some e → StagedInRange e) : ConfigurationLegal (stageRequest h entry s).1 := by
  refine hs.withSession h fun x t hx ht => ?_
  split
  · exact ht
  case h_2 e =>
    split
    case h_1 i l hl => exact ht.session fun y hy => by cases hy; exact hx.stageInto (hentry e rfl) hl
    case h_2 => exact ht

theorem ConfigurationLegal.applyCommit (hs : ConfigurationLegal s) (h : HostId) {l : List StagedEntry}
    (hl : StagingLegal l) (hchecked : ∀ e ∈ l, s.entryFailure l e = none) : ConfigurationLegal (applyCommit h l s) := by
  obtain ⟨hcommitted, hmembers, -⟩ := configurationLegal_iff.mp hs
  obtain ⟨-, hapart, hrange⟩ := hl
  have happlied := CommittedInRange.applyEntries l l hrange (fun n d hd => entryFailure_posted (hchecked _ hd)) s hcommitted
  have hfilled : ∀ g, ((l.foldl (applyEntry l) s).membersOf g).length ≤ 8 := fun g =>
    members_le_of_checked (hmembers g) hchecked fun n => line_desc_applyEntries l n l hapart s
  unfold Machine.applyCommit
  dsimp only
  generalize l.foldl (applyEntry l) s = m at happlied hfilled
  have hclosed : ConfigurationLegal { m with session := none } :=
    configurationLegal_iff.mpr ⟨⟨happlied.line, happlied.posted, happlied.group, happlied.policy⟩, hfilled,
      fun x hx => by cases hx⟩
  exact actionClosed_configurationLegal.placeAll hclosed _ _

theorem ConfigurationLegal.commitRequest (hs : ConfigurationLegal s) (h : HostId) :
    ConfigurationLegal (commitRequest h s).1 := by
  refine hs.withSession h fun x t hx ht => ?_
  split
  case h_1 => exact ht
  case h_2 hnone => exact ht.applyCommit h hx ((firstFailure_eq_none_iff t x.staging x.staging 0).mp hnone)

theorem ConfigurationLegal.performRequest (hs : ConfigurationLegal s) (h : HostId) (req : Request) :
    ConfigurationLegal (performRequest h req s).1 := by
  cases req with
  | openSession => exact hs.openSessionRequest h
  | stageSource source d => exact hs.stageRequest h fun _ => parseStageSource_inRange
  | stageGroup group d => exact hs.stageRequest h fun _ => parseStageGroup_inRange
  | stagePolicy p => exact hs.stageRequest h fun _ => parseStagePolicy_inRange
  | commit => exact actionClosed_configurationLegal.settleAnswered (hs.commitRequest h)
  | _ => exact actionClosed_configurationLegal.performRequest hs h _ rfl

theorem configurationLegal_resetBlocks (s : State) : ConfigurationLegal (resetBlocks s) := by
  refine configurationLegal_iff.mpr ⟨⟨fun n => ?_, fun n => ?_, fun g => ?_, ?_⟩, fun g => ?_, fun x hx => by cases hx⟩
  · rw [State.line_resetBlocks]; decide
  · have hposted : (resetBlocks s).posted n = PostedSource.reset := Table.look_const _ n
    rw [hposted]; decide
  · rw [State.group_resetBlocks]; decide
  · change PolicyInRange Policy.reset; decide
  · have hnone : (resetBlocks s).membersOf g = [] := by
      rw [List.eq_nil_iff_forall_not_mem]
      intro n hn
      rw [State.mem_membersOf, State.line_resetBlocks] at hn
      cases hn
    simp [hnone]

theorem ConfigurationLegal.sample (hs : ConfigurationLegal s) (levels : BitVec 48) :
    ConfigurationLegal (sampleLines levels (countTimers s)) := by
  refine hs.of_same (descs_sample levels s) rfl fun x hx => ?_
  change s.session.map (fun x => { x with timer := x.timer.tick }) = some x at hx
  obtain ⟨y, hy, rfl⟩ := Option.map_eq_some_iff.mp hx
  exact ⟨y, hy, rfl⟩

theorem stepClosed_configurationLegal : StepClosed ConfigurationLegal where
  core s t hcore hs := by
    obtain ⟨hl, hp, hg, -, -, -, hsession, hpolicy⟩ := State.tables_of_core hcore
    exact hs.of_tables hl hp hg hpolicy (.of_eq hsession)
  reset := configurationLegal_resetBlocks
  sample levels _ hs := hs.sample levels
  event e _ hs := actionClosed_configurationLegal.deliver hs e
  request h req s hs := by
    obtain ⟨code, -, he⟩ | ⟨-, he⟩ := carryOut_cases s h req <;> rw [he]
    · exact hs
    · exact hs.performRequest h req

/-- Settles O59: only a checked COMMIT changes the committed configuration, and only records in range are staged. -/
theorem configurationStaysLegal : Obligations.ConfigurationStaysLegal :=
  fun _ _ hs hstep => stepClosed_configurationLegal.step hs hstep

end Sys2Proof.Machine
end

section
/-! The bench: the clock and the ports, which no event and no request touches; and the bounds of the divider, the queues
and the ports' buffers (O60). -/

namespace Sys2Proof.Machine

variable {s t : State}

/-! ### Events and requests leave the bench alone -/

theorem bench_of_besidePool (hb : t.besidePool = s.besidePool) : t.bench = s.bench := by
  simp only [State.besidePool, Prod.mk.injEq] at hb
  simp [State.bench, hb]

theorem bench_of_besideHosts (hb : t.besideHosts = s.besideHosts) : t.bench = s.bench := by
  simp only [State.besideHosts, Prod.mk.injEq] at hb
  simp [State.bench, hb]

theorem requestClosed_bench (b : Bool × Nat × Bool × Bool × BitVec 48 × Table Port 4 × Nat × List Instr) :
    RequestClosed (fun s => s.bench = b) where
  pool := {
    create := fun o m p e _ hs => (bench_of_besidePool (createRecord_besidePool _ _ o m p e)).trans hs
    merge := fun k _ hs => (bench_of_besidePool (mergeInto_besidePool _ _ k)).trans hs
    again := fun hs => (bench_of_besidePool (setAgain_besidePool _ _)).trans hs
    group := fun _ _ _ hs => hs
    mark := fun _ _ hs => hs }
  rest _ _ _ _ _ _ _ _ _ hb _ hs := hb.trans hs
  context _ _ _ hs := hs
  filter _ hs := hs
  opens hs := (bench_of_besidePool (openRecord_besidePool _ _)).trans hs
  move o l hs := (bench_of_besidePool (moveLevel_besidePool _ o l)).trans hs
  withdraw _ hs := (bench_of_besidePool (freeRecord_besidePool _ _)).trans hs
  claim _ _ hs := hs
  extend _ _ _ hs := hs
  free {s h u c} _ hs := (bench_of_besidePool (freeRecord_besidePool (removeEntry h u s) u)).trans hs
  rearm {s h u c} _ hs := by
    have hb : (rearm u c (removeEntry h u s)).besidePool = (removeEntry h u s).besidePool := by simp [rearm]
    exact (bench_of_besidePool hb).trans hs
  back {s h u c} _ hs := (bench_of_besideHosts (returnRecord_keeps (removeEntry h u s) u h).1).trans hs
  revoke h hs := (bench_of_besideHosts (revoke_keeps _ h).1).trans hs
  session hs _ := hs
  commitLine n new hs := (bench_of_besidePool (commitMembership_besidePool n _ new _)).trans hs
  commitPosted _ _ hs := hs
  commitGroup _ _ hs := hs
  commitPolicy _ hs := hs

theorem bench_carryOut (s : State) (h : HostId) (req : Request) : (carryOut h req s).1.bench = s.bench :=
  (requestClosed_bench s.bench).carryOut rfl h req

theorem bench_deliver (s : State) (e : DueEvent) : (deliver e s).bench = s.bench :=
  (requestClosed_bench s.bench).toActionClosed.deliver rfl e

/-! ### Notice queues -/

/-- Every queue holds at most 8 notices (R141). -/
def QueuesBounded (s : State) : Prop := ∀ h, (s.host h).queue.length ≤ 8

theorem QueuesBounded.setHost (hs : QueuesBounded s) {h : HostId} {x : HostContext} (hx : x.queue.length ≤ 8) :
    QueuesBounded (s.setHost h x) := fun g => by
  by_cases hg : g = h
  · subst hg; simpa using hx
  · simpa [hg] using hs g

theorem QueuesBounded.of_hosts (hs : QueuesBounded s) (hh : t.hosts = s.hosts) : QueuesBounded t := fun g => by
  rw [State.host, hh]
  exact hs g

theorem QueuesBounded.of_pool (hb : t.besidePool = s.besidePool) (hs : QueuesBounded s) : QueuesBounded t :=
  hs.of_hosts (State.hosts_of_pool hb)

theorem QueuesBounded.place (hs : QueuesBounded s) (h : HostId) (n : Notice) : QueuesBounded (place h n s) := by
  obtain ⟨-, he⟩ | ⟨-, he⟩ := place_cases s h n <;> rw [he]
  · exact hs.setHost (enqueue_queue_le _ n (hs h))
  · exact hs

theorem QueuesBounded.returnRecord (hs : QueuesBounded s) (u : Tag) (h : HostId) : QueuesBounded (returnRecord u h s).1 :=
  (returnClosed_of_hosts (P := QueuesBounded) (fun _ _ hb hs => hs.of_pool hb) (fun _ g n hs => hs.place g n)
    u).returnRecord_any hs h

theorem QueuesBounded.removeEntry (hs : QueuesBounded s) (h : HostId) (u : Tag) : QueuesBounded (removeEntry h u s) :=
  hs.setHost (hs h)

theorem QueuesBounded.revoke (hs : QueuesBounded s) (h : HostId) : QueuesBounded (revoke h s) := by
  unfold Machine.revoke
  generalize (s.host h).stack = l
  induction l generalizing s with
  | nil => exact hs
  | cons e l ih => exact ih ((hs.removeEntry h e.tag).returnRecord e.tag h)

theorem requestClosed_queues : RequestClosed QueuesBounded where
  pool := poolClosed_of_hosts fun _ _ hb hs => hs.of_pool hb
  rest _ _ _ _ _ _ _ hh _ _ _ hs := hs.of_hosts hh
  context _ _ hx hs := hs.setHost (hx (hs _))
  filter _ hs := hs
  opens hs := hs.of_pool (openRecord_besidePool _ _)
  move o l hs := hs.of_pool (moveLevel_besidePool _ o l)
  withdraw _ hs := hs.of_pool (freeRecord_besidePool _ _)
  claim {s h u c} _ _ hs := QueuesBounded.setHost (s := (leaveList u c.level s).setRecord u _) hs (hs h)
  extend _ _ _ hs := hs
  free {s h u c} _ hs := (hs.removeEntry h u).of_pool (freeRecord_besidePool _ _)
  rearm {s h u c} _ hs := (hs.removeEntry h u).of_pool (by simp [rearm])
  back {s h u c} _ hs := (hs.removeEntry h u).returnRecord u h
  revoke h hs := hs.revoke h
  session hs _ := hs
  commitLine n new hs := QueuesBounded.of_pool (commitMembership_besidePool n _ new _) hs
  commitPosted _ _ hs := hs
  commitGroup _ _ hs := hs
  commitPolicy _ hs := hs

theorem queuesBounded_resetBlocks (s : State) : QueuesBounded (resetBlocks s) := fun h => by
  simp [HostContext.reset]

theorem stepClosed_queues : StepClosed QueuesBounded :=
  requestClosed_queues.stepClosed
    (fun s t hcore hs => by
      obtain ⟨-, -, -, -, -, hh, -⟩ := State.tables_of_core hcore
      exact hs.of_hosts hh)
    queuesBounded_resetBlocks fun _ _ hs => hs

/-! ### The divider and the ports -/

/-- A port's buffers keep within their sizes and follow its work (R171, R174). -/
structure Port.Bounded (p : Port) : Prop where
  slot : p.work ≠ .idle → p.slot = none
  size : p.rx.length ≤ 18
  empty : p.work ≠ .unjudged → p.rx = []

/-- The divider counts to 39 (R1) and every port is bounded. -/
structure BenchBounded (s : State) : Prop where
  divider : s.divider ≤ 39
  ports : ∀ h, (s.port h).Bounded

theorem buffersBounded_iff : BuffersBounded s ↔ QueuesBounded s ∧ BenchBounded s :=
  ⟨fun ⟨hdivider, hqueues, hports⟩ =>
    ⟨hqueues, hdivider, fun h => ⟨(hports h).1, (hports h).2.1, (hports h).2.2⟩⟩,
   fun ⟨hqueues, hbench⟩ =>
    ⟨hbench.divider, hqueues, fun h => ⟨(hbench.ports h).slot, (hbench.ports h).size, (hbench.ports h).empty⟩⟩⟩

theorem BenchBounded.of_eq (hs : BenchBounded s) (hdivider : t.divider = s.divider) (hports : t.ports = s.ports) :
    BenchBounded t where
  divider := hdivider ▸ hs.divider
  ports h := by rw [State.port, hports]; exact hs.ports h

theorem BenchBounded.of_bench (hs : BenchBounded s) (hb : t.bench = s.bench) : BenchBounded t := by
  simp only [State.bench, Prod.mk.injEq] at hb
  exact hs.of_eq hb.2.1 hb.2.2.2.2.2.1

theorem BenchBounded.setPort (hs : BenchBounded s) {h : HostId} {p : Port} (hp : p.Bounded) :
    BenchBounded (s.setPort h p) where
  divider := hs.divider
  ports g := by
    by_cases hg : g = h
    · subst hg; simpa using hp
    · simpa [hg] using hs.ports g

theorem BenchBounded.setWork (hs : BenchBounded s) (h : HostId) (w : PortWork) : BenchBounded (setWork h w s) :=
  hs.setPort ⟨fun _ => rfl, Nat.zero_le _, fun _ => rfl⟩

theorem BenchBounded.overrunPort (hs : BenchBounded s) (h : HostId) : BenchBounded (overrunPort h s) :=
  hs.setPort ⟨(hs.ports h).slot, (hs.ports h).size, (hs.ports h).empty⟩

theorem BenchBounded.carryOut (hs : BenchBounded s) (h : HostId) (req : Request) : BenchBounded (carryOut h req s).1 :=
  hs.of_bench (bench_carryOut s h req)

@[simp] theorem port_carryOut (s : State) (h g : HostId) (req : Request) :
    (carryOut h req s).1.port g = s.port g := by
  have hb := bench_carryOut s h req
  simp only [State.bench, Prod.mk.injEq] at hb
  rw [State.port, hb.2.2.2.2.2.1, State.port]

/-- A port whose work is judged has judged work after a request was carried out ahead of its row. -/
theorem carryOutAhead_judged {h : HostId} (g : HostId) (hs : (s.port h).work ≠ .unjudged) :
    ((carryOutAhead g s).port h).work ≠ .unjudged := by
  unfold carryOutAhead
  split
  · by_cases hg : h = g
    · subst hg; simp [setWork]
    · simpa [setWork, hg] using hs
  · exact hs

theorem BenchBounded.carryOutAhead (hs : BenchBounded s) (g : HostId) : BenchBounded (carryOutAhead g s) := by
  unfold Machine.carryOutAhead
  split
  · exact (hs.carryOut g _).setWork g _
  · exact hs

theorem BenchBounded.catchUp (hs : BenchBounded s) (bound : Nat) : BenchBounded (catchUp bound s) :=
  catchUp_keeps s BenchBounded (fun _ hs => hs.of_eq rfl rfl) (fun g _ hs => hs.carryOutAhead g) bound hs

theorem BenchBounded.answerRequest (hs : BenchBounded s) (h : HostId) (rt : RequestTag) (req : Request) :
    BenchBounded (answerRequest h rt req s) :=
  (hs.carryOut h req).setWork h _

theorem BenchBounded.takeFrame (hs : BenchBounded s) (h : HostId) {frame : List Byte} (hframe : frame.length ≤ 18) :
    BenchBounded (takeFrame h frame s) := by
  unfold Machine.takeFrame
  split
  · exact hs.setWork h _
  · exact hs.setPort ⟨fun _ => rfl, hframe, fun hne => absurd rfl hne⟩

theorem BenchBounded.deliverAll (hs : BenchBounded s) (es : List DueEvent) : BenchBounded (deliverAll es s) :=
  deliverAll_keeps BenchBounded (fun _ hs => hs.of_eq rfl rfl) (fun e s hs => hs.of_bench (bench_deliver s e)) es s hs

theorem BenchBounded.boundary (hs : BenchBounded s) (levels : BitVec 48) : BenchBounded (boundary levels s) := by
  have howed := hs.deliverAll s.outstanding
  have hreset : BenchBounded { Machine.deliverAll s.outstanding s with divider := 0 } := ⟨Nat.zero_le 39, howed.ports⟩
  exact (hreset.of_eq (t := sampleLines levels (countTimers { Machine.deliverAll s.outstanding s with divider := 0 }))
    rfl rfl).deliverAll _

theorem BenchBounded.refclkEdge (hs : BenchBounded s) : BenchBounded (refclkEdge s) := by
  unfold Machine.refclkEdge
  split
  · split
    case isTrue hlt => exact ⟨hlt, hs.ports⟩
    case isFalse => exact hs.boundary _
  · exact hs

/-! ### The sizes of frames -/

theorem headerCount_le (header : Byte) : headerCount header ≤ 15 := by
  simp only [headerCount]
  omega

theorem keptFrame_length (bytes : List Byte) : (keptFrame bytes).length ≤ 18 := by
  unfold keptFrame
  split
  case h_1 c header rest =>
    have := headerCount_le header
    rw [List.length_take]
    omega
  case h_2 hshort =>
    match bytes, hshort with
    | [], _ => simp
    | [_], _ => simp
    | c :: header :: rest, hshort => exact (hshort c header rest rfl).elim

theorem requestArgs_length (req : Request) : (requestArgs req).length ≤ 12 := by
  cases req <;> simp [requestArgs, bytes16]

theorem requestFrame_length (rt : RequestTag) (req : Request) :
    (requestFrame rt req).length = (requestArgs req).length + 3 := by
  simp [requestFrame]

theorem requestFrame_length_le (rt : RequestTag) (req : Request) : (requestFrame rt req).length ≤ 18 := by
  have := requestArgs_length req
  rw [requestFrame_length]
  omega

/-! ### Every command -/

theorem BenchBounded.serve (hs : BenchBounded s) (h : HostId) (rt : RequestTag) (req : Request) :
    BenchBounded (serve h rt req s) := by
  obtain ⟨-, he⟩ | ⟨-, bound, -, he⟩ | ⟨-, -, -, he⟩ | ⟨-, frame, hw, he⟩ | ⟨-, -, -, -, he⟩ :=
    serve_cases s h rt req <;> rw [he]
  · exact hs
  · exact (hs.catchUp bound).answerRequest h rt req
  · exact hs.takeFrame h (requestFrame_length_le rt req)
  · have hport := hs.ports h
    exact hs.setPort ⟨fun _ => hport.slot (by simp [hw]), hport.size, fun _ => hport.empty (by simp [hw])⟩
  · exact hs.overrunPort h

theorem BenchBounded.placeReply (hs : BenchBounded s) (h : HostId) (frame : List Byte)
    (hrx : (s.port h).rx = []) : BenchBounded (placeReply h frame s) :=
  hs.setPort ⟨fun hne => absurd rfl hne, by simp [hrx], fun _ => hrx⟩

theorem BenchBounded.placement (hs : BenchBounded s) (h : HostId) : BenchBounded (placement h s) := by
  unfold Machine.placement
  split
  case h_1 hw => exact hs.placeReply h _ ((hs.ports h).empty (by simp [hw]))
  case h_2 hw => exact hs.placeReply h _ ((hs.ports h).empty (by simp [hw]))
  case h_3 rt req turn hw =>
    have hcaught : BenchBounded (Machine.catchUp turn s) ∧ ((Machine.catchUp turn s).port h).work ≠ .unjudged :=
      catchUp_keeps s (fun m => BenchBounded m ∧ (m.port h).work ≠ .unjudged) (fun _ hm => ⟨hm.1.of_eq rfl rfl, hm.2⟩)
        (fun g _ ⟨hm, hwork⟩ => ⟨hm.carryOutAhead g, carryOutAhead_judged g hwork⟩) turn ⟨hs, by simp [hw]⟩
    have hdone := hcaught.1.carryOut h req
    refine hdone.placeReply h _ ((hdone.ports h).empty ?_)
    rw [port_carryOut]
    exact hcaught.2
  case h_4 => exact hs

theorem BenchBounded.judgeWaiting (hs : BenchBounded s) (turn : Nat) (h : HostId) :
    BenchBounded (judgeWaiting turn s h) := by
  unfold Machine.judgeWaiting
  split
  · exact hs.setWork h _
  · exact hs

theorem BenchBounded.execRefclkResume (hs : BenchBounded s) :
    BenchBounded (hostIds.foldl (Machine.judgeWaiting s.nextTurn) { s with refclk := true }) := by
  have hjudged : ∀ (l : List HostId) (m : State), BenchBounded m →
      BenchBounded (l.foldl (Machine.judgeWaiting s.nextTurn) m) := by
    intro l
    induction l with
    | nil => exact fun _ hm => hm
    | cons g l ih => exact fun m hm => ih _ (hm.judgeWaiting _ g)
  exact hjudged _ _ (hs.of_eq rfl rfl)

theorem Port.Bounded.shifted {p : Port} (hp : p.Bounded) (x : Transaction) (edges : Nat) : (p.shifted x edges).Bounded where
  slot hne := by
    have := hp.slot hne
    simp [Port.shifted, this]
  size := hp.size
  empty := hp.empty

theorem Port.Bounded.cleared {p : Port} (hp : p.Bounded) : p.cleared.Bounded := by
  unfold Port.cleared
  split
  · exact hp
  · exact ⟨hp.slot, Nat.zero_le 18, fun _ => rfl⟩

theorem BenchBounded.endTransaction (hs : BenchBounded s) (h : HostId) (x : Transaction) (mosi : List Bool) :
    BenchBounded (endTransaction h x mosi s) := by
  have hshifted := hs.setPort (h := h) ((hs.ports h).shifted x mosi.length)
  unfold Machine.endTransaction
  dsimp only
  split
  · unfold receiveFrame
    split
    · exact hshifted.takeFrame h (keptFrame_length _)
    · exact hshifted.overrunPort h
  · exact hshifted.setPort (hshifted.ports h).cleared

/-- Only the pin or the transaction of a port changes. -/
theorem BenchBounded.setPort_like (hs : BenchBounded s) {h : HostId} {p : Port} (hwork : p.work = (s.port h).work)
    (hslot : p.slot = (s.port h).slot) (hrx : p.rx = (s.port h).rx) : BenchBounded (s.setPort h p) :=
  hs.setPort ⟨fun hne => hslot.trans ((hs.ports h).slot (hwork ▸ hne)), hrx ▸ (hs.ports h).size,
    fun hne => hrx.trans ((hs.ports h).empty (hwork ▸ hne))⟩

theorem benchBounded_resetBlocks (s : State) : BenchBounded (resetBlocks s) := by
  refine ⟨Nat.zero_le 39, fun h => ?_⟩
  have hport : (resetBlocks s).port h = Port.resetWith (s.port h).csLow := Table.look_mapAll _ _ h
  rw [hport]
  exact ⟨fun _ => rfl, Nat.zero_le 18, fun _ => rfl⟩

theorem BenchBounded.exec (hs : BenchBounded s) (c : Instr) : ∃ t, exec c s = .next t ∧ BenchBounded t := by
  have clocked : ∀ e, ∃ t, (if s.clocked then Host.Outcome.next (deliver e s) else .next s :
      Host.Outcome State Fault Refusal) = .next t ∧ BenchBounded t := fun e => by
    split
    · exact ⟨_, rfl, hs.of_bench (bench_deliver s e)⟩
    · exact ⟨_, rfl, hs⟩
  cases hrow : rowRequest c with
  | some row =>
    obtain ⟨h, rt, req⟩ := row
    exact ⟨_, exec_request_row c h rt req s hrow, hs.serve h rt req⟩
  | none =>
    cases c <;> simp only [rowRequest, reduceCtorEq] at hrow
    case chipReset cause =>
      cases cause
      · exact ⟨_, rfl, benchBounded_resetBlocks _⟩
      · exact ⟨_, rfl, hs⟩
      · exact ⟨_, rfl, benchBounded_resetBlocks _⟩
    case release ended =>
      change ∃ t, execRelease ended s = .next t ∧ BenchBounded t
      unfold execRelease
      split
      · cases ended <;> exact ⟨_, rfl, benchBounded_resetBlocks _⟩
      · exact ⟨_, rfl, hs⟩
    case refclkResume => exact ⟨_, rfl, hs.execRefclkResume⟩
    case tickBoundary levels =>
      refine ⟨_, exec_tickBoundary levels s, ?_⟩
      split
      · refine BenchBounded.boundary (s := { s with
          rawLevels := levels, divider := max s.divider Config.dividerTop }) ⟨?_, hs.ports⟩ levels
        exact Nat.max_le.mpr ⟨hs.divider, Nat.le_refl 39⟩
      · exact hs
    case lineChange n => exact clocked (.line n)
    case windowExpiry u => exact clocked (.window u)
    case leaseExpiry u => exact clocked (.lease u)
    case sessionTimerExpiry => exact clocked .session
    case transactionStart h early =>
      change ∃ t, execTransactionStart h early s = .next t ∧ BenchBounded t
      unfold execTransactionStart
      dsimp only
      split
      · exact ⟨_, rfl, hs⟩
      · split
        · exact ⟨_, rfl, hs.setPort_like rfl rfl rfl⟩
        · exact ⟨_, rfl, hs.setPort_like rfl rfl rfl⟩
    case transactionEnd h mosi =>
      change ∃ t, execTransactionEnd h mosi s = .next t ∧ BenchBounded t
      unfold execTransactionEnd
      dsimp only
      split
      · split
        · exact ⟨_, rfl, hs.endTransaction h _ mosi⟩
        · exact ⟨_, rfl, hs.setPort_like rfl rfl rfl⟩
      · exact ⟨_, rfl, hs⟩
    case replyPlacement h =>
      change ∃ t, execReplyPlacement h s = .next t ∧ BenchBounded t
      unfold execReplyPlacement
      split
      · exact ⟨_, rfl, hs⟩
      · exact ⟨_, rfl, hs.placement h⟩
    case refclkStop => exact ⟨_, rfl, hs.of_eq rfl rfl⟩

theorem BenchBounded.step (hs : BenchBounded s) (hstep : step s = .next t) : BenchBounded t := by
  have hstepped : ∃ t, Machine.step s = .next t ∧ BenchBounded t := by
    unfold Machine.step
    split
    · exact ⟨_, rfl, hs.refclkEdge⟩
    case h_2 c rest _ => exact BenchBounded.exec (s := { s with pending := rest }) (hs.of_eq rfl rfl) c
  obtain ⟨t', hstep', ht'⟩ := hstepped
  exact Host.Outcome.next.inj (hstep'.symm.trans hstep) ▸ ht'

/-- Settles O60: the queues are bounded by their depth, the divider by its top, and a frame at its arrival. -/
theorem buffersStayBounded : Obligations.BuffersStayBounded := by
  intro s t hs hstep
  obtain ⟨hqueues, hbench⟩ := buffersBounded_iff.mp hs
  exact buffersBounded_iff.mpr ⟨stepClosed_queues.step hqueues hstep, hbench.step hstep⟩

/-! ### The reset state -/

/-- Every block at its chip reset value (R7), whatever holds chip reset. -/
theorem blocksAtReset_resetBlocks (s : State) : BlocksAtReset (resetBlocks s) := by
  refine ⟨rfl, fun h => Table.look_const _ h, fun n => ?_, fun n => ?_, fun g => ?_, poolAtReset_resetBlocks s,
    fun h => State.host_resetBlocks s h, rfl, rfl, fun h => ?_⟩
  · rw [State.line_resetBlocks]; exact ⟨rfl, rfl, rfl⟩
  · have hposted : (resetBlocks s).posted n = PostedSource.reset := Table.look_const _ n
    rw [hposted]; exact ⟨rfl, rfl⟩
  · rw [State.group_resetBlocks]; exact ⟨rfl, rfl, rfl⟩
  · have hport : (resetBlocks s).port h = Port.resetWith (s.port h).csLow := Table.look_mapAll _ _ h
    rw [hport]; rfl

/-- Settles O3: the reset state is one whose blocks were just reset, and a reset of the blocks establishes every
invariant. -/
theorem invariantsHoldAtReset : Obligations.InvariantsHoldAtReset := by
  unfold Obligations.InvariantsHoldAtReset
  rw [← resetBlocks_reset]
  obtain ⟨hlists, htimers⟩ := poolExact_resetBlocks State.reset
  exact ⟨blocksAtReset_resetBlocks _, hlists, htimers, stacksExact_iff.mpr (holdingExact_resetBlocks _),
    presenceConsistent_resetBlocks _, attnSettled_resetBlocks _, noneFree_resetBlocks _, configurationLegal_resetBlocks _,
    buffersBounded_iff.mpr ⟨queuesBounded_resetBlocks _, benchBounded_resetBlocks _⟩⟩

/-- Settles O1: a step is defined so. -/
theorem stepTakesFrontCommand : Obligations.StepTakesFrontCommand := fun _ _ _ => rfl

end Sys2Proof.Machine
end

section
/-! Chip reset, REFCLK and time (O4, O5, O6). -/

namespace Sys2Proof.Machine

variable {s t : State}

/-! ### Chip reset and its release -/

@[simp] theorem port_resetBlocks (s : State) (h : HostId) : (resetBlocks s).port h = Port.resetWith (s.port h).csLow :=
  Table.look_mapAll _ _ h

/-- Settles O4: each row is a reset of the blocks with the holds that its operand names, or nothing. -/
theorem chipResetAndRelease : Obligations.ChipResetAndRelease := by
  refine ⟨fun s cause => ?_, fun s ended => ?_⟩
  · cases cause with
    | rstnLow =>
      refine ⟨_, rfl, nofun, fun _ => ⟨rfl, by simp [resetBlocks], by simp [resetBlocks],
        blocksAtReset_resetBlocks _, fun h => ?_, rfl, rfl, rfl, rfl⟩⟩
      rw [port_resetBlocks]; rfl
    | rstnPulse => exact ⟨s, rfl, fun _ => rfl, fun hne => absurd rfl hne⟩
    | vddLow =>
      refine ⟨_, rfl, nofun, fun _ => ⟨by simp [State.inReset, resetBlocks], by simp [resetBlocks], by simp [resetBlocks],
        blocksAtReset_resetBlocks _, fun h => ?_, rfl, rfl, rfl, rfl⟩⟩
      rw [port_resetBlocks]; rfl
  · cases hreset : s.inReset with
    | false => exact ⟨s, by simp [exec, execRelease, hreset], fun _ => rfl, nofun⟩
    | true =>
      refine ⟨_, exec_release_of_inReset s ended hreset, nofun, fun _ => ⟨?_, ?_, blocksAtReset_resetBlocks _, fun h => ?_,
        ?_, ?_, ?_, ?_⟩⟩
      · cases ended <;> simp [resetBlocks, State.dropHold]
      · cases ended <;> simp [resetBlocks, State.dropHold]
      · rw [port_resetBlocks]; cases ended <;> rfl
      all_goals cases ended <;> rfl

/-! ### Time -/

theorem clocked_iff : s.clocked = true ↔ Clocked s := by
  simp [State.clocked]

theorem clocked_eq_false (hs : s.refclk = false ∨ s.inReset = true) : s.clocked = false := by
  rw [← Bool.not_eq_true, clocked_iff]
  rintro ⟨hrefclk, hreset⟩
  rcases hs with hs | hs
  · simp [hrefclk] at hs
  · simp [hreset] at hs

/-- Settles O5: every row of time looks first whether REFCLK counts. -/
theorem timeFollowsRefclk : Obligations.TimeFollowsRefclk := by
  refine ⟨fun _ => rfl, fun s hs => ?_, fun s hreset => ⟨fun h => ?_, fun c hrow => ?_⟩,
    fun s hpending => ⟨fun hs => ?_, fun hs hlt => ?_, fun hs hle => ?_⟩, fun s levels hs hlt => ?_⟩
  · have hstopped := clocked_eq_false hs
    exact ⟨fun levels => by simp [exec, execTickBoundary, hstopped], fun n => by simp [exec, execLineChange, hstopped],
      fun u => by simp [exec, execWindowExpiry, hstopped], fun u => by simp [exec, execLeaseExpiry, hstopped],
      by simp [exec, execSessionTimerExpiry, hstopped]⟩
  · simp [exec, execReplyPlacement, hreset]
  · cases hrequest : rowRequest c with
    | none => exact absurd hrequest hrow
    | some row =>
      obtain ⟨h, rt, req⟩ := row
      rw [exec_request_row c h rt req s hrequest, serve, if_pos hreset]
  · simp only [step, hpending]
    rw [refclkEdge_idle s (clocked_eq_false hs)]
  · simp only [step, hpending]
    rw [refclkEdge_counts s (clocked_iff.mpr hs) hlt, hpending]
  · have hmax : max s.divider Config.dividerTop = s.divider := Nat.max_eq_left hle
    simp only [step, hpending]
    rw [refclkEdge_boundary s (clocked_iff.mpr hs) hle, exec_tickBoundary, if_pos (clocked_iff.mpr hs), hmax]
  · have hclocked : s.clocked = true := clocked_iff.mpr hs
    have hclocked' : ({ s with divider := s.divider + 1 } : State).clocked = true := hclocked
    have hmax : max s.divider Config.dividerTop = max (s.divider + 1) Config.dividerTop := by
      simp only [Config.dividerTop]; omega
    rw [exec_tickBoundary, exec_tickBoundary, if_pos hclocked, if_pos hclocked', hmax]

/-! ### REFCLK_RESUME -/

theorem laterTurn_iff (s : State) (k : Nat) : LaterTurn s k ↔ ∀ g j, s.turnAt g = some j → j < k := by
  refine forall_congr' fun g => ?_
  unfold State.turnAt
  cases (s.port g).work <;> simp

/-- A turn `k`, or one after that of the request that waits at port `g` (R63). -/
def State.turnAfter (s : State) (k : Nat) (g : HostId) : Nat :=
  match s.turnAt g with
  | some j => max k (j + 1)
  | none => k

theorem State.le_turnAfter (s : State) (k : Nat) (g : HostId) : k ≤ s.turnAfter k g := by
  unfold State.turnAfter
  split
  · exact Nat.le_max_left _ _
  · exact Nat.le_refl k

theorem State.lt_turnAfter {s : State} {k j : Nat} {g : HostId} (hj : s.turnAt g = some j) : j < s.turnAfter k g := by
  simp only [State.turnAfter, hj]
  omega

theorem State.le_foldl_turnAfter (s : State) (l : List HostId) (k : Nat) : k ≤ l.foldl s.turnAfter k := by
  induction l generalizing k with
  | nil => exact Nat.le_refl k
  | cons g l ih => exact (s.le_turnAfter k g).trans (ih _)

theorem State.lt_foldl_turnAfter {s : State} {g : HostId} {j : Nat} (hj : s.turnAt g = some j) (l : List HostId) (k : Nat)
    (hg : g ∈ l) : j < l.foldl s.turnAfter k := by
  induction l generalizing k with
  | nil => cases hg
  | cons f l ih =>
    obtain rfl | hg := List.mem_cons.mp hg
    · exact Nat.lt_of_lt_of_le (State.lt_turnAfter hj) (s.le_foldl_turnAfter l _)
    · exact ih _ hg

theorem laterTurn_nextTurn (s : State) : LaterTurn s s.nextTurn :=
  (laterTurn_iff s _).mpr fun g _ hj => State.lt_foldl_turnAfter hj hostIds 0 (List.mem_finRange g)

/-- A port whose frame waits unjudged is judged, at the given turn; any other is left alone (R2). -/
def Port.judged (turn : Nat) (p : Port) : Port :=
  match p.work with
  | .unjudged => { p with work := judgedWork turn p.rx, rx := [], slot := none }
  | _ => p

theorem port_judgeWaiting (turn : Nat) (s : State) (g h : HostId) :
    (judgeWaiting turn s g).port h = if h = g then (s.port h).judged turn else s.port h := by
  by_cases hg : h = g
  · subst hg
    unfold judgeWaiting Port.judged
    cases hw : (s.port h).work <;> simp [setWork]
  · unfold judgeWaiting
    split <;> simp [setWork, hg]

theorem port_foldl_judgeWaiting (turn : Nat) (h : HostId) (l : List HostId) (hl : l.Nodup) (s : State) :
    (l.foldl (judgeWaiting turn) s).port h = if h ∈ l then (s.port h).judged turn else s.port h := by
  induction l generalizing s with
  | nil => simp
  | cons g l ih =>
    obtain ⟨hg, hl⟩ := List.nodup_cons.mp hl
    rw [List.foldl_cons, ih hl, port_judgeWaiting]
    by_cases hh : h = g
    · subst hh; simp [hg]
    · simp [hh]

theorem judgeWaiting_beside (turn : Nat) (s : State) (l : List HostId) :
    ∃ p, l.foldl (judgeWaiting turn) s = { s with ports := p } := by
  induction l generalizing s with
  | nil => exact ⟨s.ports, rfl⟩
  | cons g l ih =>
    obtain ⟨p, hp⟩ := ih (judgeWaiting turn s g)
    refine ⟨p, ?_⟩
    rw [List.foldl_cons, hp]
    unfold judgeWaiting
    split <;> rfl

theorem hostIds_nodup : hostIds.Nodup := List.nodup_finRange 4

/-- Settles O6: each port is judged once, at a turn after those of all requests that wait. -/
theorem refclkResumeJudgesWaitingFrames : Obligations.RefclkResumeJudgesWaitingFrames := by
  intro s
  obtain ⟨p, hp⟩ := judgeWaiting_beside s.nextTurn { s with refclk := true } hostIds
  have hport : ∀ h, (hostIds.foldl (judgeWaiting s.nextTurn) { s with refclk := true }).port h =
      (s.port h).judged s.nextTurn := fun h =>
    (port_foldl_judgeWaiting _ h hostIds hostIds_nodup _).trans (if_pos (List.mem_finRange h))
  refine ⟨_, rfl, ?_⟩
  rw [hp] at hport ⊢
  refine ⟨rfl, rfl, rfl, rfl, rfl, rfl, rfl, rfl, ⟨⟨rfl, rfl⟩, rfl⟩, ⟨rfl, rfl⟩, rfl, ⟨rfl, rfl⟩, fun h hw => ?_,
    s.nextTurn, laterTurn_nextTurn s, fun h hw => ?_⟩
  · rw [hport]
    unfold Port.judged
    split
    · exact absurd ‹_› hw
    · rfl
  · rw [hport]
    simp only [Port.judged, hw, judgedWork]
    cases checkFrame (s.port h).rx <;> rfl

end Sys2Proof.Machine
end

section
/-! What the triggers of line sources and groups make of their source, group and record (R17, R18, R23, R35, R101). -/

namespace Sys2Proof.Machine

variable {s t : State}

/-! ### What lies outside -/

theorem elsewhere_of_besidePool (hb : t.besidePool = s.besidePool) : t.hosts = s.hosts ∧ Elsewhere s t := by
  simp only [State.besidePool, Prod.mk.injEq] at hb
  obtain ⟨hrefclk, hdivider, hrstn, hpower, hraw, -, hhosts, hsession, hpolicy, hports, hchoices, hpending⟩ := hb
  exact ⟨hhosts, ⟨hrefclk, hdivider, hrstn, hpower, hraw, hchoices, hpending⟩, ⟨hsession, hpolicy⟩, hports⟩

/-! ### A created record -/

theorem createRecord_postedSources (s : State) (u : Tag) {o : Origin} (m : Nat) (p : Option PostedFields) (e : HostSet)
    (ho : ∀ n, o ≠ .posted n) : (createRecord u o m p e s).postedSources = s.postedSources := by
  cases o with
  | line n => rfl
  | posted n => exact absurd rfl (ho n)
  | group g => rfl

theorem createRecord_groups (s : State) (u : Tag) {o : Origin} (m : Nat) (p : Option PostedFields) (e : HostSet)
    (ho : ∀ g, o ≠ .group g) : (createRecord u o m p e s).groups = s.groups := by
  cases o with
  | line n => rfl
  | posted n => rfl
  | group g => exact absurd rfl (ho g)

theorem createRecord_lineSources (s : State) (u : Tag) {o : Origin} (m : Nat) (p : Option PostedFields) (e : HostSet)
    (ho : ∀ n, o ≠ .line n) : (createRecord u o m p e s).lineSources = s.lineSources := by
  cases o with
  | line n => exact absurd rfl (ho n)
  | posted n => rfl
  | group g => rfl

/-! ### Triggers outside groups -/

/-- All but the source `n`, the pool and what lies beside it is kept. -/
structure SourceChange (n : LineId) (s t : State) : Prop where
  lines : OtherLinesKept n s t
  posted : t.postedSources = s.postedSources
  groups : t.groups = s.groups
  beside : t.besidePool = s.besidePool

theorem SourceChange.refl (n : LineId) (s : State) : SourceChange n s s := ⟨fun _ _ => rfl, rfl, rfl, rfl⟩

theorem sourceChange_setLine (n : LineId) (s : State) (x : LineSource) : SourceChange n s (s.setLine n x) :=
  ⟨fun m hm => by simp [hm], rfl, rfl, rfl⟩

theorem SourceChange.trans {n : LineId} {r : State} (h : SourceChange n r s) (h' : SourceChange n s t) :
    SourceChange n r t :=
  ⟨fun m hm => (h'.lines m hm).trans (h.lines m hm), h'.posted.trans h.posted, h'.groups.trans h.groups,
    h'.beside.trans h.beside⟩

/-- No table changes in a merge. -/
theorem sourceChange_mergeInto (n : LineId) (s : State) (u : Tag) (k : Nat) : SourceChange n s (mergeInto u k s) := by
  unfold mergeInto
  split
  · exact ⟨fun _ _ => rfl, rfl, rfl, rfl⟩
  · exact .refl n s

theorem sourceChange_setAgain (n : LineId) (s : State) (u : Tag) : SourceChange n s (setAgain u s) := by
  unfold setAgain
  split
  · exact ⟨fun _ _ => rfl, rfl, rfl, rfl⟩
  · exact .refl n s

theorem sourceChange_createForLine (n : LineId) (s : State) : SourceChange n s (createForLine n s) := by
  unfold createForLine
  split
  · refine ⟨fun m hm => ?_, rfl, rfl, createRecord_besidePool _ _ _ _ _ _⟩
    rw [createRecord_line, if_neg (by simpa using Ne.symm hm)]
  · exact sourceChange_setLine n s _

theorem sourceChange_triggerLine (n : LineId) (s : State) : SourceChange n s (triggerLine n s) := by
  obtain ⟨k, -, he⟩ | ⟨-, he, -⟩ | ⟨u, -, -, -, he⟩ | ⟨u, -, -, -, -, -, he⟩ := triggerLine_cases s n <;> rw [he]
  · exact sourceChange_setLine n s _
  · exact sourceChange_createForLine n s
  · exact sourceChange_mergeInto n s u 1
  · exact sourceChange_setAgain n s u

/-- A request for a record where a tag is FREE (R31, R32). -/
theorem createForLine_of_free {n : LineId} {u : Tag} (hfree : LowestFree s u) :
    (createForLine n s).line n = { s.line n with seq := (s.line n).seq + 1 } ∧
      EntersPending s (createForLine n s) u (s.line n).desc.terms
        (createdFields (.line n) ((s.line n).seq + 1) (s.line n).desc.terms.level 0 none 0) := by
  have hcreate : createForLine n s = createRecord u (.line n) 0 none 0 s := by
    simp [createForLine, (s.freeTag_eq_some_iff u).mpr hfree]
  rw [hcreate]
  exact ⟨by rw [createRecord_line, if_pos rfl], entersPending_createRecord s u (.line n) 0 none 0⟩

/-- A request for a record where no tag is FREE (R23). -/
theorem createForLine_of_full {n : LineId} (hfull : ∀ v, s.occ v ≠ none) :
    (createForLine n s).line n = { s.line n with starved := some 1 } ∧ SamePool s (createForLine n s) := by
  have hstarve : createForLine n s = setLineStarved n (some 1) s := by
    simp [createForLine, s.freeTag_eq_none_iff.mpr hfull]
  rw [hstarve]
  exact ⟨by simp [setLineStarved], rfl, rfl⟩

/-! ### Member triggers -/

/-- All but the group `g`, the pool and what lies beside it is kept. -/
structure GroupChange (g : GroupId) (s t : State) : Prop where
  lines : t.lineSources = s.lineSources
  posted : t.postedSources = s.postedSources
  groups : OtherGroupsKept g s t
  beside : t.besidePool = s.besidePool

theorem GroupChange.refl (g : GroupId) (s : State) : GroupChange g s s := ⟨rfl, rfl, fun _ _ => rfl, rfl⟩

theorem groupChange_setGroup (g : GroupId) (s : State) (x : Group) : GroupChange g s (s.setGroup g x) :=
  ⟨rfl, rfl, fun k hk => by simp [hk], rfl⟩

theorem GroupChange.trans {g : GroupId} {r : State} (h : GroupChange g r s) (h' : GroupChange g s t) :
    GroupChange g r t :=
  ⟨h'.lines.trans h.lines, h'.posted.trans h.posted, fun k hk => (h'.groups k hk).trans (h.groups k hk),
    h'.beside.trans h.beside⟩

theorem groupChange_mergeInto (g : GroupId) (s : State) (u : Tag) (k : Nat) : GroupChange g s (mergeInto u k s) := by
  unfold mergeInto
  split
  · exact ⟨rfl, rfl, fun _ _ => rfl, rfl⟩
  · exact .refl g s

theorem groupChange_requestGroup (g : GroupId) (s : State) : GroupChange g s (requestGroup g s) := by
  unfold requestGroup
  split
  · refine ⟨rfl, rfl, fun k hk => ?_, createRecord_besidePool _ _ _ _ _ _⟩
    rw [createRecord_group, if_neg (by simpa using Ne.symm hk)]
  · exact groupChange_setGroup g s _

theorem groupChange_memberTrigger (n : LineId) (g : GroupId) (s : State) : GroupChange g s (memberTrigger n g s) := by
  unfold memberTrigger
  split
  · have hjoined := groupChange_setGroup g s { s.group g with collect := insertSource n (s.group g).collect }
    dsimp only
    split
    · exact hjoined
    · split
      · exact hjoined.trans (groupChange_requestGroup g _)
      · split
        · exact hjoined.trans (groupChange_mergeInto g _ _ _)
        · exact hjoined
  · exact .refl g s

theorem requestGroup_of_free {g : GroupId} {u : Tag} (hfree : LowestFree s u) :
    (requestGroup g s).group g = { s.group g with seq := (s.group g).seq + 1, live := some u } ∧
      EntersPending s (requestGroup g s) u (s.group g).desc.terms
        (createdFields (.group g) ((s.group g).seq + 1) (s.group g).desc.terms.level 0 none 0) := by
  have hcreate : requestGroup g s = createRecord u (.group g) 0 none 0 s := by
    simp [requestGroup, (s.freeTag_eq_some_iff u).mpr hfree]
  rw [hcreate]
  exact ⟨by rw [createRecord_group, if_pos rfl], entersPending_createRecord s u (.group g) 0 none 0⟩

theorem requestGroup_of_full {g : GroupId} (hfull : ∀ v, s.occ v ≠ none) :
    (requestGroup g s).group g = { s.group g with starved := true } ∧ SamePool s (requestGroup g s) := by
  have hstarve : requestGroup g s = setGroupStarved g true s := by
    simp [requestGroup, s.freeTag_eq_none_iff.mpr hfull]
  rw [hstarve]
  exact ⟨by simp [setGroupStarved], rfl, rfl⟩

theorem record_of_free {u : Tag} (hc : s.occ u = none) : s.record u = { s.record u with occ := none } := by
  rw [← hc]
  rfl

theorem mergeInto_record (s : State) (u : Tag) (k : Nat) :
    (mergeInto u k s).record u = { s.record u with
      occ := (s.occ u).map (fun c => { c with merge := min 255 (c.merge + k) }) } ∧
    OtherRecordsKept u s (mergeInto u k s) ∧ (mergeInto u k s).lists = s.lists ∧ (mergeInto u k s).lineSources = s.lineSources ∧
      (mergeInto u k s).groups = s.groups := by
  unfold mergeInto
  cases hc : s.occ u with
  | none => exact ⟨record_of_free hc, fun _ _ => rfl, rfl, rfl, rfl⟩
  | some c =>
    refine ⟨by simp [State.setOcc, saturate, Config.countMax], fun v hv => ?_, rfl, rfl, rfl⟩
    simp [State.setOcc, hv]

theorem setAgain_record (s : State) (u : Tag) :
    (setAgain u s).record u = { s.record u with occ := (s.occ u).map (fun c => { c with again := true }) } ∧
    OtherRecordsKept u s (setAgain u s) ∧ (setAgain u s).lists = s.lists ∧
      (setAgain u s).lineSources = s.lineSources := by
  unfold setAgain
  cases hc : s.occ u with
  | none => exact ⟨record_of_free hc, fun _ _ => rfl, rfl, rfl⟩
  | some c =>
    refine ⟨by simp [State.setOcc], fun v hv => ?_, rfl, rfl⟩
    simp [State.setOcc, hv]

/-- A source joins the collect set of its group (R101). -/
def joinCollect (n : LineId) (g : GroupId) (s : State) : State :=
  s.setGroup g { s.group g with collect := insertSource n (s.group g).collect }

theorem group_joinCollect (n : LineId) (g : GroupId) (s : State) :
    (joinCollect n g s).group g = { s.group g with collect := insertSource n (s.group g).collect } :=
  State.group_setGroup_same s g _

@[simp] theorem occ_joinCollect (n : LineId) (g : GroupId) (s : State) (u : Tag) :
    (joinCollect n g s).occ u = s.occ u := rfl

@[simp] theorem record_joinCollect (n : LineId) (g : GroupId) (s : State) (u : Tag) :
    (joinCollect n g s).record u = s.record u := rfl

/-- A member trigger by the state of its group (R101, R102, R106). -/
theorem memberTriggered_memberTrigger (s : State) (n : LineId) (g : GroupId) (u : Tag) :
    MemberTriggered s (memberTrigger n g s) n g (s.group g).desc.terms u := by
  refine ⟨fun hdisabled => ?_, fun henabled => ?_⟩
  · have hdiscarded : memberTrigger n g s = s := by simp [memberTrigger, hdisabled]
    rw [hdiscarded]
    exact ⟨rfl, rfl, rfl⟩
  · have hjoin : memberTrigger n g s = if (s.group g).starved then joinCollect n g s
        else match (s.group g).live with
          | none => requestGroup g (joinCollect n g s)
          | some v => if s.isPendingTag v then mergeInto v 1 (joinCollect n g s) else joinCollect n g s := by
      simp only [memberTrigger, henabled, if_true]
      rw [← joinCollect, group_joinCollect]
      rfl
    refine ⟨fun hstarved => ?_, fun hstarved hlive => ⟨fun hfree => ?_, fun hfull => ?_⟩, fun hstarved hlive => ?_⟩
    · rw [hjoin, if_pos hstarved, group_joinCollect]
      exact ⟨rfl, rfl, rfl⟩
    · rw [hjoin, if_neg (by simp [hstarved]), hlive]
      obtain ⟨hgroup, hentered⟩ := requestGroup_of_free (g := g) (s := joinCollect n g s) hfree
      rw [group_joinCollect] at hgroup hentered
      exact ⟨hgroup, hentered⟩
    · rw [hjoin, if_neg (by simp [hstarved]), hlive]
      obtain ⟨hgroup, hpool⟩ := requestGroup_of_full (g := g) (s := joinCollect n g s) hfull
      rw [group_joinCollect] at hgroup
      exact ⟨hgroup, hpool⟩
    · rw [hjoin, if_neg (by simp [hstarved]), hlive]
      dsimp only
      split
      case isTrue hpending =>
        obtain ⟨hrecord, hothers, hlists, -, hgroups⟩ := mergeInto_record (joinCollect n g s) u 1
        refine ⟨by rw [State.group, hgroups, ← State.group, group_joinCollect], hlists, hothers, hrecord.trans ?_⟩
        cases hc : s.occ u with
        | none => simp [hc]
        | some c => simp [hc, (State.isPendingTag_of_occ hc).symm.trans hpending]
      case isFalse hclaimed =>
        refine ⟨group_joinCollect n g s, rfl, fun _ _ => rfl, ?_⟩
        cases hc : s.occ u with
        | none => exact record_of_free hc
        | some c =>
          have hphase : c.phase.isPending = false := by
            rw [← State.isPendingTag_of_occ hc]; simpa using hclaimed
          simp only [Option.map_some, hphase, Bool.false_eq_true, if_false]
          rw [← hc]
          rfl

/-! ### Standing sources -/

theorem Sense.isLevel_of_atActiveLevel {d : Sense} {level : Bool} (h : AtActiveLevel d level) : d.isLevel = true := by
  obtain ⟨rfl, -⟩ | ⟨rfl, -⟩ := h <;> rfl

theorem atActiveLevel_iff (d : Sense) (level : Bool) :
    AtActiveLevel d level ↔ d.isLevel = true ∧ level = d.active := by
  cases d <;> simp [AtActiveLevel, Sense.isLevel, Sense.active]

theorem State.stands_eq (s : State) (n : LineId) :
    s.stands n = (s.line n).filter.any (fun f => decide (AtActiveLevel (s.line n).desc.sense f.filtered)) := by
  unfold State.stands
  cases hf : (s.line n).filter with
  | none => simp
  | some f =>
    rw [Bool.eq_iff_iff]
    simp [atActiveLevel_iff]

/-- The test of a source outside groups that stands (R18, R23). -/
theorem levelFired_levelTest (w : Tag) {n : LineId} (henabled : (s.line n).desc.enabled = true)
    (hstands : s.stands n = true) (hgroup : (s.line n).desc.group = none) : LevelFired s (levelTest n s) n w := by
  have hlevel : (s.line n).desc.sense.isLevel = true := by
    simp only [State.stands, Bool.and_eq_true] at hstands
    exact hstands.1
  have htest : levelTest n s =
      if (s.liveTags (.line n)).isEmpty = true ∧ (s.line n).starved = none then createForLine n s else s := by
    simp only [levelTest, henabled, hstands, hgroup, and_self, if_true]
    split
    case isTrue hfires => simp [triggerLine, hfires.2, hlevel]
    case isFalse => rfl
  have hempty := s.liveTags_isEmpty_iff (.line n)
  refine ⟨fun hnot => ?_, fun hlive hstarved => ?_⟩
  · rw [htest, if_neg fun ⟨hlive, hstarved⟩ => hnot.elim (fun h => h (hempty.mp hlive)) fun h => h hstarved]
    exact ⟨rfl, rfl, rfl⟩
  · rw [htest, if_pos ⟨hempty.mpr hlive, hstarved⟩]
    exact ⟨createForLine_of_free, createForLine_of_full⟩

theorem sourceChange_levelTest {n : LineId} (s : State) (hgroup : (s.line n).desc.group = none) :
    SourceChange n s (levelTest n s) := by
  unfold levelTest
  split
  · rw [hgroup]
    dsimp only
    split
    · exact sourceChange_triggerLine n s
    · exact .refl n s
  · exact .refl n s

/-- A standing member fires a member trigger (R18). -/
theorem levelTest_of_member {n : LineId} {g : GroupId} (henabled : (s.line n).desc.enabled = true)
    (hstands : s.stands n = true) (hgroup : (s.line n).desc.group = some g) : levelTest n s = memberTrigger n g s := by
  simp [levelTest, henabled, hstands, hgroup]

/-! ### Line changes -/

/-- A line change once its filter has moved: the filtered level is the candidate, and the reference level follows where
the source is enabled (R12, R16). -/
def changedLine (n : LineId) (f : LineFilter) (s : State) : State :=
  s.setLine n { s.line n with filter := some (changedFilter f) }

@[simp] theorem line_changedLine (n : LineId) (f : LineFilter) (s : State) :
    (changedLine n f s).line n = { s.line n with filter := some (changedFilter f) } :=
  State.line_setLine_same s n _

theorem sourceChange_changedLine (n : LineId) (f : LineFilter) (s : State) : SourceChange n s (changedLine n f s) :=
  sourceChange_setLine n s _

theorem exec_lineChange {n : LineId} {f : LineFilter} (hclocked : Clocked s) (hf : (s.line n).filter = some f)
    (hcompletes : f.completes = true) : exec (.lineChange n) s = .next (settle (deliverLineChange n f s)) := by
  simp [exec, execLineChange, clocked_iff.mpr hclocked, lineEvent, hf, hcompletes]

theorem deliverLineChange_of_enabled {n : LineId} (f : LineFilter) (henabled : (s.line n).desc.enabled = true) :
    deliverLineChange n f s = judgeLineChange n f.reference f.candidate (changedLine n f s) := by
  simp [deliverLineChange, henabled, changedLine]

theorem deliverLineChange_of_disabled {n : LineId} (f : LineFilter) (hdisabled : (s.line n).desc.enabled = false) :
    deliverLineChange n f s =
      s.setLine n { s.line n with filter := some { changedFilter f with reference := f.reference } } := by
  simp [deliverLineChange, hdisabled]

/-- An edge matches as R16 lists the senses. -/
theorem matchesEdge_iff (d : Sense) (reference level : Bool) :
    (reference ≠ level ∧ d.matchesEdge level = true) ↔
      (reference = false ∧ level = true ∧ (d = .rising ∨ d = .both)) ∨
        (reference = true ∧ level = false ∧ (d = .falling ∨ d = .both)) := by
  cases d <;> cases reference <;> cases level <;> simp [Sense.matchesEdge]

theorem judgeLineChange_of_matchingEdge {n : LineId} {f : LineFilter} (h : MatchingEdge s n f) :
    judgeLineChange n f.reference f.candidate (changedLine n f s) = fire n (changedLine n f s) := by
  obtain ⟨-, -, -, -, hedge⟩ := h
  have hmatch := (matchesEdge_iff (s.line n).desc.sense f.reference f.candidate).mpr hedge
  have hsense : (s.line n).desc.sense.isLevel = false := by
    obtain ⟨-, -, h | h⟩ | ⟨-, -, h | h⟩ := hedge <;> rw [h] <;> rfl
  simp [judgeLineChange, hsense, hmatch]

theorem judgeLineChange_of_otherEdge {n : LineId} {f : LineFilter} (hsense : (s.line n).desc.sense.isLevel = false)
    (hnot : ¬ (f.reference ≠ f.candidate ∧ (s.line n).desc.sense.matchesEdge f.candidate = true)) :
    judgeLineChange n f.reference f.candidate (changedLine n f s) = changedLine n f s := by
  simp only [judgeLineChange, line_changedLine, hsense, Bool.false_eq_true, if_false, if_neg hnot]

theorem judgeLineChange_to_active {n : LineId} {f : LineFilter} (h : AtActiveLevel (s.line n).desc.sense f.candidate) :
    judgeLineChange n f.reference f.candidate (changedLine n f s) = levelTest n (changedLine n f s) := by
  obtain ⟨hsense, hactive⟩ := (atActiveLevel_iff _ _).mp h
  simp only [judgeLineChange, line_changedLine, hsense, hactive, if_true]

theorem judgeLineChange_from_active {n : LineId} {f : LineFilter} (hsense : (s.line n).desc.sense.isLevel = true)
    (h : ¬ AtActiveLevel (s.line n).desc.sense f.candidate) :
    judgeLineChange n f.reference f.candidate (changedLine n f s) = setLineStarved n none (changedLine n f s) := by
  have hinactive : ¬ f.candidate = (s.line n).desc.sense.active := fun hactive =>
    h ((atActiveLevel_iff _ _).mpr ⟨hsense, hactive⟩)
  simp only [judgeLineChange, line_changedLine, hsense, if_true, if_neg hinactive]

theorem stands_changedLine (n : LineId) (f : LineFilter) (s : State) :
    (changedLine n f s).stands n = decide (AtActiveLevel (s.line n).desc.sense f.candidate) := by
  rw [State.stands_eq, line_changedLine]
  rfl

/-- What a change confined to source `n` leaves of the rest, once ATTN has settled. -/
theorem SourceChange.rest {n : LineId} (h : SourceChange n s t) :
    OtherLinesKept n s (settle t) ∧ (settle t).postedSources = s.postedSources ∧ (settle t).groups = s.groups ∧
      (settle t).hosts = s.hosts ∧ Elsewhere s (settle t) ∧ AttnSettled (settle t) :=
  have ⟨hhosts, helsewhere⟩ := elsewhere_of_besidePool h.beside
  ⟨h.lines, h.posted, h.groups, hhosts, helsewhere, attnSettled_settle t⟩

/-- Settles O9: in each case the change is judged to fire nothing. -/
theorem lineChangesThatFireNothing : Obligations.LineChangesThatFireNothing := by
  refine ⟨fun s n f hclocked hf hcompletes hdisabled => ?_, fun s n f hclocked hf hcompletes henabled hsense hnot => ?_,
    fun s n f hclocked hf hcompletes henabled hsense hnot => ?_⟩
  · refine ⟨_, exec_lineChange hclocked hf hcompletes, ?_⟩
    rw [deliverLineChange_of_disabled f hdisabled]
    obtain ⟨hlines, hposted, hgroups, hhosts, helsewhere, hattn⟩ := (sourceChange_setLine n s
      { s.line n with filter := some { changedFilter f with reference := f.reference } }).rest
    exact ⟨State.line_setLine_same s n _, hlines, hposted, hgroups, ⟨rfl, rfl⟩, hhosts, helsewhere, hattn⟩
  · refine ⟨_, exec_lineChange hclocked hf hcompletes, ?_⟩
    have hedge : ¬ (f.reference ≠ f.candidate ∧ (s.line n).desc.sense.matchesEdge f.candidate = true) := fun h =>
      hnot ⟨hclocked, hf, hcompletes, henabled, (matchesEdge_iff _ _ _).mp h⟩
    rw [deliverLineChange_of_enabled f henabled, judgeLineChange_of_otherEdge hsense hedge]
    obtain ⟨hlines, hposted, hgroups, hhosts, helsewhere, hattn⟩ := (sourceChange_changedLine n f s).rest
    exact ⟨line_changedLine n f s, hlines, hposted, hgroups, ⟨rfl, rfl⟩, hhosts, helsewhere, hattn⟩
  · refine ⟨_, exec_lineChange hclocked hf hcompletes, ?_⟩
    rw [deliverLineChange_of_enabled f henabled, judgeLineChange_from_active hsense hnot]
    obtain ⟨hlines, hposted, hgroups, hhosts, helsewhere, hattn⟩ := ((sourceChange_changedLine n f s).trans
      (sourceChange_setLine n _ { (changedLine n f s).line n with starved := none })).rest
    refine ⟨(State.line_setLine_same _ n _).trans ?_, hlines, hposted, hgroups, ⟨rfl, rfl⟩, hhosts, helsewhere, hattn⟩
    rw [line_changedLine]

theorem fire_of_ungrouped {n : LineId} (hgroup : (s.line n).desc.group = none) : fire n s = triggerLine n s := by
  simp [fire, hgroup]

theorem exec_lineChange_of_matchingEdge {n : LineId} {f : LineFilter} (h : MatchingEdge s n f) :
    exec (.lineChange n) s = .next (settle (fire n (changedLine n f s))) := by
  have hedge := h
  obtain ⟨hclocked, hf, hcompletes, henabled, -⟩ := h
  rw [exec_lineChange hclocked hf hcompletes, deliverLineChange_of_enabled f henabled,
    judgeLineChange_of_matchingEdge hedge]

theorem MatchingEdge.isLevel {n : LineId} {f : LineFilter} (h : MatchingEdge s n f) :
    (s.line n).desc.sense.isLevel = false := by
  obtain ⟨-, -, -, -, ⟨-, -, h | h⟩ | ⟨-, -, h | h⟩⟩ := h <;> rw [h] <;> rfl

/-- An edge trigger with no record to merge into or to mark asks for one (R17, R35). -/
theorem triggerLine_of_no_record {n : LineId} (hstarved : (s.line n).starved = none)
    (hpending : NoPendingRecord s (.line n))
    (hclaimed : (s.line n).desc.clearPolicy = .onClaim ∨ NoClaimedRecord s (.line n)) :
    triggerLine n s = createForLine n s := by
  have hnone := (s.pendingTag_eq_none_iff _).mpr hpending
  obtain ⟨k, hk, -⟩ | ⟨-, he, -⟩ | ⟨u, -, -, hu, -⟩ | ⟨u, -, -, -, hcomplete, hu, -⟩ := triggerLine_cases s n
  · exact absurd (hk.symm.trans hstarved) nofun
  · exact he
  · exact absurd (hu.symm.trans hnone) nofun
  · obtain h | h := hclaimed
    · exact absurd (hcomplete.symm.trans h) nofun
    · exact absurd (hu.symm.trans ((s.claimedTag_eq_none_iff _).mpr h)) nofun

/-- Settles O10: such an edge asks for a record, and a tag is FREE. -/
theorem edgeCreatesARecord : Obligations.EdgeCreatesARecord := by
  intro s n f u hedge hgroup hstarved hpending hclaimed hfree
  refine ⟨_, exec_lineChange_of_matchingEdge hedge, ?_⟩
  have hfires : fire n (changedLine n f s) = createForLine n (changedLine n f s) := by
    rw [fire_of_ungrouped (by rw [line_changedLine]; exact hgroup)]
    exact triggerLine_of_no_record (s := changedLine n f s) (by rw [line_changedLine]; exact hstarved) hpending
      (by rw [line_changedLine]; exact hclaimed)
  obtain ⟨hlines, hposted, hgroups, hhosts, helsewhere, hattn⟩ :=
    ((sourceChange_changedLine n f s).trans (sourceChange_createForLine n _)).rest
  obtain ⟨hline, hentered⟩ := createForLine_of_free (n := n) (s := changedLine n f s) hfree
  rw [line_changedLine] at hline hentered
  rw [hfires]
  exact ⟨hline, hlines, hposted, hgroups, hentered, hhosts, helsewhere, hattn⟩

/-! ### Edges without a new record -/

theorem triggerLine_of_starved {n : LineId} {k : Nat} (hk : (s.line n).starved = some k) :
    triggerLine n s = setLineStarved n (some (min 255 (k + 1))) s := by
  simp [triggerLine, hk, saturate, Config.countMax]

theorem triggerLine_of_pending {n : LineId} {u : Tag} (hstarved : (s.line n).starved = none)
    (hsense : (s.line n).desc.sense.isLevel = false) (hu : s.pendingTag (.line n) = some u) :
    triggerLine n s = mergeInto u 1 s := by
  simp [triggerLine, hstarved, hsense, hu]

theorem triggerLine_of_claimed {n : LineId} {u : Tag} (hstarved : (s.line n).starved = none)
    (hsense : (s.line n).desc.sense.isLevel = false) (hnone : s.pendingTag (.line n) = none)
    (hpolicy : (s.line n).desc.clearPolicy = .onComplete) (hu : s.claimedTag (.line n) = some u) :
    triggerLine n s = setAgain u s := by
  simp [triggerLine, hstarved, hsense, hnone, hpolicy, hu]

/-- The one live record of an origin, CLAIMED, is the one that the searches find. -/
theorem claimedTag_of_only {o : Origin} {u : Tag} {c : Occurrence} (hc : s.occ u = some c) (horigin : c.origin = o)
    (hclaimed : c.phase.isClaimed = true)
    (hothers : ∀ v, v ≠ u → (s.occ v).all (fun d => decide (d.origin ≠ o)) = true) :
    s.pendingTag o = none ∧ s.claimedTag o = some u := by
  have hnot : ∀ v, v ≠ u → s.isLiveOf o v = false := fun v hv => by
    have := hothers v hv
    cases hd : s.occ v with
    | none => simp [State.isLiveOf, hd]
    | some d => simpa [State.isLiveOf, hd] using this
  have hphase := Phase.isPending_eq_false_of_isClaimed hclaimed
  refine ⟨(s.pendingTag_eq_none_iff o).mpr fun v => ?_, (tags_find?_eq_some_iff _ u).mpr ⟨?_, fun v hv => ?_⟩⟩
  · by_cases hv : v = u
    · subst hv; simp [hc, hclaimed]
    · have := hothers v hv
      cases hd : s.occ v with
      | none => rfl
      | some d => simp only [hd, Option.all_some] at this ⊢; simp [this]
  · simp [State.isLiveOf, State.isPendingTag, hc, horigin, hphase]
  · simp [hnot v hv.ne]

/-- Settles O11: the trigger is counted, merges, sets Again or starves, by the first of the four that applies. -/
theorem edgeWithoutANewRecord : Obligations.EdgeWithoutANewRecord := by
  intro s n f u c hedge hgroup hocc
  refine ⟨_, exec_lineChange_of_matchingEdge hedge, ?_⟩
  rw [fire_of_ungrouped (s := changedLine n f s) (by rw [line_changedLine]; exact hgroup)]
  have hline := line_changedLine n f s
  have hsense : ((changedLine n f s).line n).desc.sense.isLevel = false := by rw [hline]; exact hedge.isLevel
  have hunstarved : (s.line n).starved = none → ((changedLine n f s).line n).starved = none := fun h => by
    rw [hline]; exact h
  obtain ⟨hlines, hposted, hgroups, hhosts, helsewhere, hattn⟩ :=
    ((sourceChange_changedLine n f s).trans (sourceChange_triggerLine n _)).rest
  refine ⟨hlines, hposted, hgroups, fun hstarved => ?_, fun hstarved horigin hpending hothers => ?_,
    fun hstarved horigin hclaimed hpolicy hothers => ?_, fun hstarved hpending hclaimed hfull => ?_⟩
  · obtain ⟨k, hk⟩ := Option.ne_none_iff_exists'.mp hstarved
    rw [triggerLine_of_starved (s := changedLine n f s) (by rw [hline]; exact hk)] at hhosts helsewhere hattn ⊢
    refine ⟨(State.line_setLine_same _ n _).trans ?_, ⟨rfl, rfl⟩, hhosts, helsewhere, hattn⟩
    simp [hline, hk]
  · have hc := hocc hstarved
    have hu : (changedLine n f s).pendingTag (.line n) = some u :=
      State.pendingTag_of_onlyPending (s := s) hc ⟨horigin, hpending, hothers⟩
    rw [triggerLine_of_pending (hunstarved hstarved) hsense hu] at hhosts helsewhere hattn ⊢
    obtain ⟨hrecord, hrecords, hlists, hsources, -⟩ := mergeInto_record (changedLine n f s) u 1
    refine ⟨?_, hrecord.trans ?_, hrecords, hlists, hhosts, helsewhere, hattn⟩
    · exact (congrArg (fun x => Table.look x n) hsources).trans hline
    · rw [show (changedLine n f s).occ u = some c from hc]
      rfl
  · have hc := hocc hstarved
    obtain ⟨hnone, hu⟩ := claimedTag_of_only (s := s) hc horigin hclaimed hothers
    rw [triggerLine_of_claimed (s := changedLine n f s) (hunstarved hstarved) hsense hnone
      (by rw [hline]; exact hpolicy) hu] at hhosts helsewhere hattn ⊢
    obtain ⟨hrecord, hrecords, hlists, hsources⟩ := setAgain_record (changedLine n f s) u
    refine ⟨?_, hrecord.trans ?_, hrecords, hlists, hhosts, helsewhere, hattn⟩
    · exact (congrArg (fun x => Table.look x n) hsources).trans hline
    · rw [show (changedLine n f s).occ u = some c from hc]
      rfl
  · rw [triggerLine_of_no_record (s := changedLine n f s) (hunstarved hstarved) hpending
      (by rw [hline]; exact hclaimed)] at hhosts helsewhere hattn ⊢
    obtain ⟨hstarve, hpool⟩ := createForLine_of_full (n := n) (s := changedLine n f s) hfull
    rw [hline] at hstarve
    exact ⟨hstarve, hpool, hhosts, helsewhere, hattn⟩

/-! ### Level-sensed sources and members of groups -/

/-- Settles O12: the change is judged by the level it leads to. -/
theorem levelSourceLineChange : Obligations.LevelSourceLineChange := by
  intro s n f u hclocked hf hcompletes henabled hsense hgroup
  refine ⟨_, exec_lineChange hclocked hf hcompletes, ?_⟩
  rw [deliverLineChange_of_enabled f henabled]
  have hline := line_changedLine n f s
  by_cases hactive : AtActiveLevel (s.line n).desc.sense f.candidate
  · rw [judgeLineChange_to_active hactive]
    have hgroup' : ((changedLine n f s).line n).desc.group = none := by rw [hline]; exact hgroup
    obtain ⟨hlines, hposted, hgroups, hhosts, helsewhere, hattn⟩ :=
      ((sourceChange_changedLine n f s).trans (sourceChange_levelTest _ hgroup')).rest
    have hfired : LevelFired (changedLine n f s) (levelTest n (changedLine n f s)) n u :=
      levelFired_levelTest u (by rw [hline]; exact henabled) (by rw [stands_changedLine]; exact decide_eq_true hactive)
        hgroup'
    simp only [LevelFired, hline] at hfired
    obtain ⟨hquiet, hfires⟩ := hfired
    exact ⟨hlines, hposted, hgroups, hhosts, helsewhere, hattn, fun h => absurd hactive h, fun _ h => hquiet h,
      fun _ hlive hstarved => (hfires hlive hstarved).1, fun _ hlive hstarved => (hfires hlive hstarved).2⟩
  · rw [judgeLineChange_from_active hsense hactive]
    obtain ⟨hlines, hposted, hgroups, hhosts, helsewhere, hattn⟩ := ((sourceChange_changedLine n f s).trans
      (sourceChange_setLine n _ { (changedLine n f s).line n with starved := none })).rest
    refine ⟨hlines, hposted, hgroups, hhosts, helsewhere, hattn, fun _ => ⟨?_, rfl, rfl⟩, fun h => absurd h hactive,
      fun h => absurd h hactive, fun h => absurd h hactive⟩
    exact (State.line_setLine_same _ n _).trans (by rw [hline])

/-- Settles O13: either change makes the source fire to its group. -/
theorem memberTriggerAtItsGroup : Obligations.MemberTriggerAtItsGroup := by
  intro s n f g u hclocked hf hcompletes henabled hchange hgroup
  refine ⟨_, exec_lineChange hclocked hf hcompletes, ?_⟩
  have hline := line_changedLine n f s
  have hgroup' : ((changedLine n f s).line n).desc.group = some g := by rw [hline]; exact hgroup
  have hfires : deliverLineChange n f s = memberTrigger n g (changedLine n f s) := by
    rw [deliverLineChange_of_enabled f henabled]
    obtain hedge | hactive := hchange
    · rw [judgeLineChange_of_matchingEdge hedge]
      simp [fire, hgroup]
    · rw [judgeLineChange_to_active hactive]
      exact levelTest_of_member (by rw [hline]; exact henabled)
        (by rw [stands_changedLine]; exact decide_eq_true hactive) hgroup'
  rw [hfires]
  have hchanged := groupChange_memberTrigger n g (changedLine n f s)
  obtain ⟨hhosts, helsewhere⟩ := elsewhere_of_besidePool hchanged.beside
  refine ⟨?_, fun m hm => ?_, hchanged.posted, hchanged.groups, hhosts, helsewhere, attnSettled_settle _,
    memberTriggered_memberTrigger (changedLine n f s) n g u⟩
  · exact (congrArg (fun x => Table.look x n) hchanged.lines).trans hline
  · exact (congrArg (fun x => Table.look x m) hchanged.lines).trans ((sourceChange_changedLine n f s).lines m hm)

/-! ### The expiry of a window -/

/-- Settles O14. -/
theorem windowExpiryOpensTheRecord : Obligations.WindowExpiryOpensTheRecord := by
  intro s u c hclocked hc
  have hexec : exec (.windowExpiry u) s = .next (windowEvent u s) := by
    simp [exec, execWindowExpiry, clocked_iff.mpr hclocked]
  refine ⟨_, hexec, fun ⟨hphase, hdue⟩ => ?_, fun hnot => ?_⟩
  · have hopen : windowEvent u s = settle (s.setRecord u { s.record u with
        timer := .stopped, occ := some { c with phase := .pendingOpen } }) := by
      simp [windowEvent, hc, hdue, openRecord, hphase]
    rw [hopen]
    obtain ⟨hhosts, helsewhere⟩ := elsewhere_of_besidePool (State.besidePool_setRecord s u { s.record u with
        timer := .stopped, occ := some { c with phase := .pendingOpen } })
    exact ⟨State.record_setRecord_same s u _, fun v hv => State.record_setRecord_ne s u v _ hv, rfl, ⟨⟨rfl, rfl⟩, rfl⟩,
      hhosts, helsewhere, attnSettled_settle _⟩
  · unfold windowEvent
    split
    case h_1 d hd hdue =>
      obtain rfl : c = d := Option.some.inj (hc.symm.trans hd)
      rw [if_neg fun hphase => hnot.elim (fun h => h hphase) fun h => h hdue]
    case h_2 => rfl

end Sys2Proof.Machine
end

section
/-! The tick boundary (O7) and the seeding of the line filters at the first one (O8). -/

namespace Sys2Proof.Machine

variable {s t : State}

/-! ### The boundary with nothing owed -/

theorem Timer.tick_eq (x : Timer) : x.tick = countedTimer x := by
  rcases x with _ | ⟨_ | k⟩ | _ <;> rfl

/-- The state after the divider passed to 0, the timers counted and the lines were sampled (R1, R3, R11). -/
def sampledAt (levels : BitVec 48) (s : State) : State := sampleLines levels (countTimers { s with divider := 0 })

theorem line_sampledAt (levels : BitVec 48) (s : State) (n : LineId) :
    (sampledAt levels s).line n = (s.line n).sample (levels.getLsbD n.val) := line_sample _ _ _

theorem record_sampledAt (levels : BitVec 48) (s : State) (u : Tag) :
    (sampledAt levels s).record u = { s.record u with timer := countedTimer (s.record u).timer } := by
  rw [sampledAt, record_sample, Timer.tick_eq]
  rfl

theorem session_sampledAt (levels : BitVec 48) (s : State) :
    (sampledAt levels s).session = s.session.map (fun x => { x with timer := countedTimer x.timer }) := by
  simp only [← Timer.tick_eq]
  rfl

theorem boundary_of_nothingOwed (levels : BitVec 48) (howed : NothingOwed s) :
    boundary levels s = deliverAll
      ((sampledAt levels s).seedTests (lineIds.filter (fun n => (s.line n).filter.isNone))) (sampledAt levels s) := by
  simp only [boundary, outstanding_of_nothingOwed s howed, deliverAll_nil]
  rfl

/-- The sources tested at a boundary: those of the lines that it seeds. -/
theorem exec_tickBoundary_of_nothingOwed (levels : BitVec 48) (hclocked : Clocked s) (howed : NothingOwed s) :
    exec (.tickBoundary levels) s = .next (deliverAll
      ((sampledAt levels { s with rawLevels := levels }).seedTests
        (lineIds.filter (fun n => (s.line n).filter.isNone)))
      (sampledAt levels { s with rawLevels := levels })) := by
  rw [exec_tickBoundary, if_pos (clocked_iff.mpr hclocked)]
  exact congrArg Host.Outcome.next (boundary_of_nothingOwed levels howed)

/-- A seeded filter at a sample, by the table of R12. -/
theorem LineFilter.sample_eq (f : LineFilter) (d : Nat) (level : Bool) :
    f.sample d level =
      if level = f.filtered then { f with candidate := f.filtered, stable := 0, completes := false }
      else if f.candidate = f.filtered then
        { f with candidate := level, stable := 0, completes := decide (d = 0) }
      else { f with stable := f.stable + 1, completes := decide (d ≤ f.stable + 1) } := by
  unfold LineFilter.sample
  split
  · simp
  · split
    case isTrue hlevel _ => simp [hlevel]
    case isFalse hcandidate => simp [hcandidate]

/-- Settles O7: with every line seeded and nothing owed, the boundary is the sampling alone. -/
theorem tickBoundaryCountsAndSamples : Obligations.TickBoundaryCountsAndSamples := by
  intro s levels hclocked howed hseeded
  have hnone : lineIds.filter (fun n => (s.line n).filter.isNone) = [] := by
    simp [hseeded]
  refine ⟨_, exec_tickBoundary_of_nothingOwed levels hclocked howed, ?_⟩
  rw [hnone]
  refine ⟨rfl, rfl, rfl, rfl, rfl, rfl, rfl, rfl, rfl, rfl, rfl, rfl, rfl, rfl,
    record_sampledAt levels { s with rawLevels := levels }, session_sampledAt levels { s with rawLevels := levels },
    fun n => ?_⟩
  obtain ⟨f, hf⟩ := Option.ne_none_iff_exists'.mp (hseeded n)
  refine (line_sampledAt levels { s with rawLevels := levels } n).trans ?_
  change (s.line n).sample _ = _
  simp only [LineSource.sample, hf, Option.map_some, LineFilter.sample_eq]

/-! ### Seeding -/

/-- The state after a boundary that counts no timer: the divider at 0 and every line sampled. -/
def seededAt (levels : BitVec 48) (s : State) : State :=
  { s with
    divider := 0, rawLevels := levels
    lineSources := Table.mapIdx (fun n x => x.sample (levels.getLsbD n.val)) s.lineSources }

theorem sampledAt_of_stopped (levels : BitVec 48) (htimers : ∀ v, (s.record v).timer = .stopped)
    (hsession : s.session = none) : sampledAt levels { s with rawLevels := levels } = seededAt levels s := by
  have hrecords : Table.mapAll (fun r : Record => { r with timer := r.timer.tick }) s.records = s.records := by
    apply Table.ext_look
    intro u
    rw [Table.look_mapAll]
    change { s.record u with timer := (s.record u).timer.tick } = s.record u
    rw [htimers u]
    change { s.record u with timer := .stopped } = s.record u
    rw [← htimers u]
  simp only [sampledAt, sampleLines, countTimers, seededAt, hrecords, hsession, Option.map_none]

theorem line_seededAt (levels : BitVec 48) {n : LineId} (hn : (s.line n).filter = none) :
    (seededAt levels s).line n = { s.line n with filter := some (LineFilter.seeded (levels.getLsbD n.val)) } := by
  have hline : (seededAt levels s).line n = (s.line n).sample (levels.getLsbD n.val) := Table.look_mapIdx _ _ n
  rw [hline, LineSource.sample, hn]

/-- Of a list without repetitions, the one element that may have a property. -/
theorem filter_of_unique {α : Type} {p : α → Bool} {n : α} {l : List α} (hl : l.Nodup) (hn : n ∈ l)
    (hothers : ∀ m, m ≠ n → p m = false) : l.filter p = if p n then [n] else [] := by
  have hsub : ∀ m ∈ l.filter p, m = n := fun m hm => by
    by_contra hne
    simpa [hothers m hne] using (List.mem_filter.mp hm).2
  split
  case isTrue hp =>
    exact List.perm_singleton.mp ((List.perm_ext_iff_of_nodup (hl.filter p) (List.nodup_singleton n)).mpr fun m =>
      ⟨fun hm => List.mem_singleton.mpr (hsub m hm), fun hm => by
        rw [List.mem_singleton.mp hm]
        exact List.mem_filter.mpr ⟨hn, hp⟩⟩)
  case isFalse hp =>
    rw [List.eq_nil_iff_forall_not_mem]
    intro m hm
    exact hp (hsub m hm ▸ (List.mem_filter.mp hm).2)

/-- The filters are no part of the pool. -/
theorem poolClosed_filters (x : LineId → Option LineFilter) : PoolClosed (fun s => ∀ k, (s.line k).filter = x k) where
  create o m p e _ hs k := by
    rw [createRecord_line]
    split <;> exact hs k
  merge {s u} j _ hs k := by
    rw [State.line, (mergeInto_record s u j).2.2.2.1]
    exact hs k
  again {s u} hs k := by
    rw [State.line, (setAgain_record s u).2.2.2]
    exact hs k
  group _ _ _ hs k := hs k
  mark {s n} x _ hs k := by
    by_cases hk : k = n
    · subst hk
      exact (congrArg LineSource.filter (State.line_setLine_same s k _)).trans (hs k)
    · exact (congrArg LineSource.filter (State.line_setLine_ne s n k _ hk)).trans (hs k)

/-- The first boundary: every line is seeded, and the source that stands, if one does, is tested. -/
theorem exec_tickBoundary_seeding (levels : BitVec 48) {n : LineId} (hclocked : Clocked s) (howed : NothingOwed s)
    (hunseeded : ∀ m, (s.line m).filter = none) (htimers : ∀ v, (s.record v).timer = .stopped)
    (hsession : s.session = none)
    (hothers : ∀ m, m ≠ n → (s.line m).desc.enabled = false ∨
      ¬ AtActiveLevel (s.line m).desc.sense (levels.getLsbD m.val)) :
    exec (.tickBoundary levels) s = .next
      (if (s.line n).desc.enabled = true ∧ AtActiveLevel (s.line n).desc.sense (levels.getLsbD n.val) then
        settle (levelTest n (seededAt levels s)) else seededAt levels s) := by
  have hall : lineIds.filter (fun m => (s.line m).filter.isNone) = lineIds := by simp [hunseeded]
  have hstands : ∀ m, (((seededAt levels s).line m).desc.enabled && (seededAt levels s).stands m) = true ↔
      ((s.line m).desc.enabled = true ∧ AtActiveLevel (s.line m).desc.sense (levels.getLsbD m.val)) := fun m => by
    rw [State.stands_eq, line_seededAt levels (hunseeded m)]
    simp [LineFilter.seeded]
  rw [exec_tickBoundary_of_nothingOwed levels hclocked howed, hall, sampledAt_of_stopped levels htimers hsession,
    State.seedTests, filter_of_unique (l := lineIds) (List.nodup_finRange 48) (List.mem_finRange n) fun m hm => ?_]
  · by_cases hn : ((seededAt levels s).line n).desc.enabled && (seededAt levels s).stands n
    · rw [if_pos hn, if_pos ((hstands n).mp hn)]
      rfl
    · rw [if_neg hn, if_neg fun h => hn ((hstands n).mpr h)]
      rfl
  · rw [← Bool.not_eq_true, hstands m]
    rintro ⟨henabled, hactive⟩
    obtain h | h := hothers m hm
    · exact absurd (h.symm.trans henabled) nofun
    · exact h hactive

/-- Settles O8: the source that stands is tested in the state just seeded. -/
theorem seedingTakesTheFirstSample : Obligations.SeedingTakesTheFirstSample := by
  intro s levels n u hclocked howed hunseeded htimers hsession hothers
  refine ⟨_, exec_tickBoundary_seeding levels hclocked howed hunseeded htimers hsession hothers, ?_⟩
  have hline := fun m => line_seededAt levels (hunseeded m)
  have hseeded : ∀ m, ((seededAt levels s).line m).filter = some (LineFilter.seeded (levels.getLsbD m.val)) :=
    fun m => by rw [hline]
  split
  case isTrue hfires =>
    obtain ⟨henabled, hactive⟩ := hfires
    have henabled' : ((seededAt levels s).line n).desc.enabled = true := by rw [hline]; exact henabled
    have hstands : (seededAt levels s).stands n = true := by
      rw [State.stands_eq, hline]
      exact decide_eq_true hactive
    have hfilters := (poolClosed_filters _).levelTest hseeded n
    cases hgroup : (s.line n).desc.group with
    | none =>
      have hgroup' : ((seededAt levels s).line n).desc.group = none := by rw [hline]; exact hgroup
      have hchange := sourceChange_levelTest (seededAt levels s) hgroup'
      obtain ⟨hhosts, ⟨hrefclk, hdivider, hrstn, hpower, hraw, hchoices, hpending⟩, ⟨hsame, hpolicy⟩, hports⟩ :=
        elsewhere_of_besidePool hchange.beside
      have hfired : LevelFired (seededAt levels s) (levelTest n (seededAt levels s)) n u :=
        levelFired_levelTest u henabled' hstands hgroup'
      obtain ⟨hquiet, hfires⟩ := hfired
      refine ⟨hdivider, hrefclk, hrstn, hpower, hraw, hchoices, hpending, hchange.posted, hhosts, hsame.trans hsession,
        hpolicy, hports, hfilters, fun m hm => ?_, fun hnot => ?_, fun _ _ => ⟨fun _ hlive hstarved => ⟨hchange.groups,
          fun hfree => ?_, fun hfull => ?_⟩, fun k hk => by cases hk⟩⟩
      · rw [show (settle (levelTest n (seededAt levels s))).line m = _ from (hchange.lines m hm).trans (hline m)]
      · obtain h | h | ⟨-, h⟩ := hnot
        · exact absurd (h.symm.trans henabled) nofun
        · exact absurd hactive h
        · obtain ⟨hkept, hpool⟩ := hquiet (by rw [hline]; exact h)
          rw [show (settle (levelTest n (seededAt levels s))).line n = _ from hkept.trans (hline n)]
          exact ⟨rfl, hchange.groups, hpool⟩
      · obtain ⟨hmade, hentered⟩ := (hfires hlive (by rw [hline]; exact hstarved)).1 hfree
        rw [show (settle (levelTest n (seededAt levels s))).line n = _ from hmade, hline]
        rw [hline] at hentered
        exact ⟨rfl, hentered, attnSettled_settle _⟩
      · obtain ⟨hmade, hpool⟩ := (hfires hlive (by rw [hline]; exact hstarved)).2 hfull
        rw [show (settle (levelTest n (seededAt levels s))).line n = _ from hmade, hline]
        exact ⟨rfl, hpool⟩
    | some g =>
      have hgroup' : ((seededAt levels s).line n).desc.group = some g := by rw [hline]; exact hgroup
      rw [levelTest_of_member henabled' hstands hgroup'] at hfilters ⊢
      have hchange := groupChange_memberTrigger n g (seededAt levels s)
      obtain ⟨hhosts, ⟨hrefclk, hdivider, hrstn, hpower, hraw, hchoices, hpending⟩, ⟨hsame, hpolicy⟩, hports⟩ :=
        elsewhere_of_besidePool hchange.beside
      have hlines : ∀ m, (settle (memberTrigger n g (seededAt levels s))).line m = (seededAt levels s).line m := fun m =>
        congrArg (fun x => Table.look x m) hchange.lines
      refine ⟨hdivider, hrefclk, hrstn, hpower, hraw, hchoices, hpending, hchange.posted, hhosts, hsame.trans hsession,
        hpolicy, hports, hfilters, fun m _ => by rw [hlines, hline], fun hnot => ?_,
        fun _ _ => ⟨nofun, fun k hk => ?_⟩⟩
      · obtain h | h | ⟨h, -⟩ := hnot
        · exact absurd (h.symm.trans henabled) nofun
        · exact absurd hactive h
        · cases h
      · obtain rfl := Option.some.inj hk
        exact ⟨by rw [hlines, hline], memberTriggered_memberTrigger (seededAt levels s) n g u, hchange.groups,
          attnSettled_settle _⟩
  case isFalse hquiet =>
    refine ⟨rfl, rfl, rfl, rfl, rfl, rfl, rfl, rfl, rfl, hsession, rfl, rfl, hseeded, fun m _ => by rw [hline],
      fun _ => ⟨by rw [hline], rfl, rfl, rfl⟩, fun henabled hactive => absurd ⟨henabled, hactive⟩ hquiet⟩

end Sys2Proof.Machine
end

section
/-! Frames and layouts that read back (O23, O24). -/

namespace Sys2Proof.Machine

/-! ### Tables as lists -/

theorem Table.look_toList {n : Nat} (v : Table Byte n) (i : Fin n) : v.toList[i.val]? = some (v.look i) := by
  simp [Table.look]

theorem Table.look_of_toList {n : Nat} {v : Table Byte n} {l : List Byte} (h : v.toList = l) (i : Fin n) {b : Byte}
    (hb : l[i.val]? = some b) : v.look i = b :=
  Option.some.inj ((Table.look_toList v i).symm.trans (h ▸ hb))

/-! ### Request frames -/

theorem header_readsBack (rt : RequestTag) (k : Fin 16) :
    headerCount (rt ++ BitVec.ofNat 4 k.val) = k.val ∧ headerTag (rt ++ BitVec.ofNat 4 k.val) = rt := by
  revert rt k
  decide

/-- The header of a request frame, as the port reads it (R174, R190). -/
theorem headerCount_of_request (rt : RequestTag) (req : Request) :
    headerCount (rt ++ BitVec.ofNat 4 (requestArgs req).length) = (requestArgs req).length :=
  (header_readsBack rt ⟨(requestArgs req).length, Nat.lt_of_le_of_lt (requestArgs_length req) (by decide)⟩).1

theorem headerTag_of_request (rt : RequestTag) (req : Request) :
    headerTag (rt ++ BitVec.ofNat 4 (requestArgs req).length) = rt :=
  (header_readsBack rt ⟨(requestArgs req).length, Nat.lt_of_le_of_lt (requestArgs_length req) (by decide)⟩).2

theorem argumentCount_requestCode (req : Request) :
    argumentCount (requestCode req) = some (requestArgs req).length := by
  cases req <;> simp [requestArgs, bytes16] <;> rfl

theorem bytes16_append (w : BitVec 16) : w.extractLsb' 8 8 ++ w.extractLsb' 0 8 = w := by
  apply BitVec.eq_of_getLsbD_eq
  intro i hi
  rw [BitVec.getLsbD_append]
  by_cases h : i < 8
  · simp [h]
  · have hback : 8 + (i - 8) = i := by omega
    simp [h, hback]
    omega

/-- The arguments of a request read back as that request (R190). -/
theorem parseRequest_requestArgs (req : Request) : parseRequest (requestCode req) (requestArgs req) = some req := by
  cases req with
  | raise source payload notify =>
    change some (Request.raise source (payload.extractLsb' 8 8 ++ payload.extractLsb' 0 8) notify) = _
    rw [bytes16_append]
  | stageSource source v =>
    obtain ⟨⟨l⟩, hl⟩ := v
    match l, hl with
    | [a, b, c, d, e], _ => rfl
  | stageGroup group v =>
    obtain ⟨⟨l⟩, hl⟩ := v
    match l, hl with
    | [a, b, c, d], _ => rfl
  | stagePolicy v =>
    obtain ⟨⟨l⟩, hl⟩ := v
    match l, hl with
    | [a, b, c, d, e, f, g, h, i, j, k, l], _ => rfl
  | _ => rfl

/-- The checks of R176 on a frame whose header tells its length. -/
theorem checkFrame_of_counted {c header : Byte} {args rest : List Byte} {req : Request}
    (hcount : headerCount header = args.length) (harguments : argumentCount c = some args.length)
    (hparse : parseRequest c args = some req) :
    checkFrame (c :: header :: (args ++ crc8 (c :: header :: args) :: rest)) = .passed (headerTag header) req := by
  simp [checkFrame, hcount, harguments, hparse]

theorem requestFrame_eq (rt : RequestTag) (req : Request) :
    requestFrame rt req = requestCode req :: (rt ++ BitVec.ofNat 4 (requestArgs req).length) ::
      (requestArgs req ++ [crc8 (requestCode req :: (rt ++ BitVec.ofNat 4 (requestArgs req).length) :: requestArgs req)]) :=
  rfl

/-- Settles O23: the header tells the count, the code its arguments, and the CRC byte is the one checked. -/
theorem requestFramesReadBack : Obligations.RequestFramesReadBack := by
  intro rt req
  rw [requestFrame_eq, checkFrame_of_counted (headerCount_of_request rt req) (argumentCount_requestCode req)
    (parseRequest_requestArgs req), headerTag_of_request]

/-! ### Fields of a byte -/

theorem field_byte (n lo width : Nat) : field (byte n) lo width = n % 256 / 2 ^ lo % 2 ^ width := by
  simp [field, byte]

theorem field_nibbles {a b : Nat} (ha : a < 16) (hb : b < 16) :
    field (byte (a * 16 + b)) 4 4 = a ∧ field (byte (a * 16 + b)) 0 4 = b := by
  constructor <;> rw [field_byte] <;> omega

theorem flagNat_lt (b : Bool) : flagNat b < 2 := by cases b <;> decide

theorem flagNat_beq_one (b : Bool) : (flagNat b == 1) = b := by cases b <;> rfl

/-- The first byte of a Source Descriptor, read field by field (R191). -/
theorem field_modeByte (e p x : Bool) {sense level : Nat} (hsense : sense < 8) (hlevel : level < 4) :
    field (byte (flagNat e * 128 + flagNat p * 64 + flagNat x * 32 + sense * 4 + level)) 2 3 = sense ∧
      field (byte (flagNat e * 128 + flagNat p * 64 + flagNat x * 32 + sense * 4 + level)) 0 2 = level ∧
      field (byte (flagNat e * 128 + flagNat p * 64 + flagNat x * 32 + sense * 4 + level)) 7 1 = flagNat e ∧
      field (byte (flagNat e * 128 + flagNat p * 64 + flagNat x * 32 + sense * 4 + level)) 6 1 = flagNat p ∧
      field (byte (flagNat e * 128 + flagNat p * 64 + flagNat x * 32 + sense * 4 + level)) 5 1 = flagNat x := by
  have he := flagNat_lt e
  have hp := flagNat_lt p
  have hx := flagNat_lt x
  refine ⟨?_, ?_, ?_, ?_, ?_⟩ <;> rw [field_byte] <;> omega

/-- The third byte of a Group Descriptor, whatever its bits that carry nothing (R188, R191). -/
theorem field_groupByte {b : Byte} {e : Bool} {level : Nat} (hlevel : level < 4)
    (hb : b &&& 0x83 = byte (flagNat e * 128 + level)) : field b 7 1 = flagNat e ∧ field b 0 2 = level := by
  have hmask : ∀ b : Byte, field (b &&& 0x83) 7 1 = field b 7 1 ∧ field (b &&& 0x83) 0 2 = field b 0 2 := by decide
  have he := flagNat_lt e
  rw [← (hmask b).1, ← (hmask b).2, hb, field_byte, field_byte]
  omega

/-! ### Codings that read back -/

theorem below_val {bound : Nat} (n : Fin bound) : below bound n.val = some n := dif_pos n.isLt

theorem nibbleOrNone_lt {n : Nat} (hn : n ≤ 16) (x : Option (Fin n)) : nibbleOrNone x < 16 := by
  cases x with
  | none => simp [nibbleOrNone]
  | some i => exact Nat.lt_of_lt_of_le i.isLt hn

theorem parsePreferred_nibbleOrNone (p : Option HostId) : parsePreferred (nibbleOrNone p) = some p := by
  revert p
  decide

theorem parseGroupField_nibbleOrNone (g : Option GroupId) : parseGroupField (nibbleOrNone g) = some g := by
  revert g
  decide

theorem parseSense_code (x : Sense) : parseSense x.code = some x := by cases x <;> rfl

theorem Sense.code_lt (x : Sense) : x.code < 8 := by cases x <;> decide

theorem parseRoute_toNat {r : HostSet} (hr : r ≠ 0) : parseRoute r.toNat = some r := by
  have hn : r.toNat ≠ 0 := fun h => hr (BitVec.eq_of_toNat_eq h)
  simp [parseRoute, hn]

theorem parseSource_line (n : LineId) : parseSource (byte n.val) = some (.line n) := by
  revert n
  decide

theorem parseSource_posted (n : PostedId) : parseSource (byte (48 + n.val)) = some (.posted n) := by
  revert n
  decide

theorem parseGroup_byte (g : GroupId) : parseGroup (byte g.val) = some g := by
  revert g
  decide

theorem field_routeByte (x : Terms) :
    field x.routeByte 4 4 = x.route.toNat ∧ field x.routeByte 0 4 = nibbleOrNone x.preferred :=
  field_nibbles x.route.isLt (nibbleOrNone_lt (by decide) x.preferred)

/-! ### Records that read back -/

/-- R191: the five bytes of a Source Descriptor. -/
theorem parseSourceDescriptor_bytes {d : SourceDescriptor} {v : Table Byte 5} (hv : v.toList = d.bytes)
    (hroute : d.terms.route ≠ 0) : parseSourceDescriptor v = some d := by
  obtain ⟨hsense, hlevel, henabled, hpolicy, hself⟩ := field_modeByte d.enabled (decide (d.clearPolicy = .onClaim))
    d.selfExclude d.sense.code_lt d.terms.level.isLt
  obtain ⟨hdebounce, hreoffer⟩ := field_nibbles d.debounce.isLt (b := d.terms.reofferLimit.val) (by omega)
  obtain ⟨hgroup, hclass⟩ := field_nibbles (nibbleOrNone_lt (by decide) d.group) (b := d.terms.leaseClass.val) (by omega)
  obtain ⟨hr, hp⟩ := field_routeByte d.terms
  have hclear : (if flagNat (decide (d.clearPolicy = .onClaim)) = 1 then ClearPolicy.onClaim else .onComplete) =
      d.clearPolicy := by
    cases d.clearPolicy <;> rfl
  simp only [parseSourceDescriptor, Table.look_of_toList hv 0 rfl, Table.look_of_toList hv 1 rfl,
    Table.look_of_toList hv 2 rfl, Table.look_of_toList hv 3 rfl, Table.look_of_toList hv 4 rfl, hsense, hlevel,
    henabled, hpolicy, hself, hdebounce, hreoffer, hgroup, hclass, hr, hp, parseSense_code, below_val,
    parseRoute_toNat hroute, parsePreferred_nibbleOrNone, parseGroupField_nibbleOrNone, flagNat_beq_one, hclear]
  rfl

theorem parseStageSource_line {n : LineId} {d : SourceDescriptor} {v : Table Byte 5} (hv : v.toList = d.bytes)
    (hrange : LineInRange d) : parseStageSource (byte n.val) v = some (.line n d) := by
  have hfits : d.policyFits (.line n) = true := by
    cases hlevel : d.sense.isLevel with
    | false => simp [SourceDescriptor.policyFits, hlevel]
    | true => simp [SourceDescriptor.policyFits, hrange.2 hlevel]
  simp [parseStageSource, parseSource_line, parseSourceDescriptor_bytes hv hrange.1, hfits]

theorem parseStageSource_posted {n : PostedId} {d : SourceDescriptor} {v : Table Byte 5} (hv : v.toList = d.bytes)
    (hrange : PostedInRange d) : parseStageSource (byte (48 + n.val)) v = some (.posted n d) := by
  have hfits : d.policyFits (.posted n) = true := by simp [SourceDescriptor.policyFits, hrange.2]
  simp [parseStageSource, parseSource_posted, parseSourceDescriptor_bytes hv hrange.1, hfits]

/-- R188, R191: the four bytes of a Group Descriptor, of which bits 6 to 2 of the third are not read. -/
theorem parseStageGroup_bytes {g : GroupId} {d : GroupDescriptor} {v : Table Byte 4}
    (hv : (v.put 2 (v.look 2 &&& 0x83)).toList = d.bytes) (hroute : d.terms.route ≠ 0) :
    parseStageGroup (byte g.val) v = some (.group g d) := by
  have hkept {i : Fin 4} (hi : i ≠ 2) {b : Byte} (hb : d.bytes[i.val]? = some b) : v.look i = b :=
    (Table.look_put_ne v 2 i _ hi).symm.trans (Table.look_of_toList hv i hb)
  have hmasked := (Table.look_put_same v 2 _).symm.trans (Table.look_of_toList hv 2 rfl)
  obtain ⟨hclass, hreoffer⟩ := field_nibbles (a := d.terms.leaseClass.val) (b := d.terms.reofferLimit.val)
    (by omega) (by omega)
  obtain ⟨henabled, hlevel⟩ := field_groupByte d.terms.level.isLt hmasked
  obtain ⟨hr, hp⟩ := field_routeByte d.terms
  simp only [parseStageGroup, parseGroup_byte, hkept (i := 0) (by decide) rfl, hkept (i := 1) (by decide) rfl,
    hkept (i := 3) (by decide) rfl, hclass, hreoffer, henabled, hlevel, hr, hp, below_val, parseRoute_toNat hroute,
    parsePreferred_nibbleOrNone, flagNat_beq_one]
  rfl

theorem word16_bytes16 (w : BitVec 16) : word16 (w.extractLsb' 8 8) (w.extractLsb' 0 8) = w := bytes16_append w

theorem leases_eq (v : Table (BitVec 16) 4) : (⟨#[v.look 0, v.look 1, v.look 2, v.look 3], rfl⟩ : Table (BitVec 16) 4) = v := by
  obtain ⟨⟨l⟩, hl⟩ := v
  match l, hl with
  | [a, b, c, d], _ => rfl

/-- R191: the twelve bytes of the Policy record. -/
theorem parseStagePolicy_bytes {p : Policy} {v : Table Byte 12} (hv : v.toList = p.bytes) (hrange : PolicyInRange p) :
    parseStagePolicy v = some (.policy p) := by
  have hextension : below 8 (byte p.extensionLimit.val).toNat = some p.extensionLimit := by
    rw [byte, BitVec.toNat_ofNat, Nat.mod_eq_of_lt (by omega), below_val]
  have hstrike : below 8 (byte p.strikeLimit.val).toNat = some p.strikeLimit := by
    rw [byte, BitVec.toNat_ofNat, Nat.mod_eq_of_lt (by omega), below_val]
  have hnot : ¬ (p.lease.look 0 = 0 ∨ p.lease.look 1 = 0 ∨ p.lease.look 2 = 0 ∨ p.lease.look 3 = 0 ∨
      p.sessionTimeout.toNat < 1000) := by
    have hlease := hrange.1
    rintro (h | h | h | h | h)
    · exact hlease 0 h
    · exact hlease 1 h
    · exact hlease 2 h
    · exact hlease 3 h
    · exact Nat.not_le.mpr h hrange.2
  simp only [parseStagePolicy, Table.look_of_toList hv 0 rfl, Table.look_of_toList hv 1 rfl,
    Table.look_of_toList hv 2 rfl, Table.look_of_toList hv 3 rfl, Table.look_of_toList hv 4 rfl,
    Table.look_of_toList hv 5 rfl, Table.look_of_toList hv 6 rfl, Table.look_of_toList hv 7 rfl,
    Table.look_of_toList hv 8 rfl, Table.look_of_toList hv 9 rfl, Table.look_of_toList hv 10 rfl,
    Table.look_of_toList hv 11 rfl, word16_bytes16, hextension, hstrike, leases_eq, if_neg hnot]
  rfl

/-- Settles O24: each field reads back from its bits of the layout. -/
theorem configurationLayoutsReadBack : Obligations.ConfigurationLayoutsReadBack :=
  ⟨fun _ _ _ => parseStageSource_line, fun _ _ _ => parseStageSource_posted, fun _ _ _ => parseStageGroup_bytes,
    fun _ _ => parseStagePolicy_bytes⟩

end Sys2Proof.Machine
end

section
/-! Transactions at a host port (O18 to O21). -/

namespace Sys2Proof.Machine

variable {s : State} {h : HostId}

theorem onlyPort_setPort (s : State) (h : HostId) (p : Port) :
    OtherPortsKept h s (s.setPort h p) ∧ OnlyPortsChange s (s.setPort h p) :=
  ⟨fun _ hg => State.port_setPort_ne _ _ _ _ hg,
    ⟨rfl, rfl, rfl, rfl, rfl, rfl, rfl⟩, rfl, ⟨⟨rfl, rfl⟩, rfl⟩, ⟨rfl, rfl⟩, rfl, rfl, rfl⟩

theorem State.setPort_setPort (s : State) (h : HostId) (p q : Port) : (s.setPort h p).setPort h q = s.setPort h q := by
  simp [State.setPort, Table.put]

/-! ### The status byte -/

theorem statusBits (p : Presence) (offer notice lost session overrun ready : Bool) :
    byte (p.code * 64 + flagNat offer * 32 + flagNat notice * 16 + flagNat lost * 8 + flagNat session * 4 +
        flagNat overrun * 2 + flagNat ready) =
      BitVec.ofNat 2 p.code ++ BitVec.ofBool offer ++ BitVec.ofBool notice ++ BitVec.ofBool lost ++
        BitVec.ofBool session ++ BitVec.ofBool overrun ++ BitVec.ofBool ready := by
  cases p <;> revert offer notice lost session overrun ready <;> decide

theorem offerableCount_pos_iff (s : State) (h : HostId) : 0 < s.offerableCount h ↔ ∃ u, Offerable s h u := by
  rw [State.offerableCount, List.countP_pos_iff]
  exact ⟨fun ⟨u, _, hu⟩ => ⟨u, (State.offerable_iff s h u).mp hu⟩,
    fun ⟨u, hu⟩ => ⟨u, List.mem_finRange u, (State.offerable_iff s h u).mpr hu⟩⟩

theorem statusByte_eq (s : State) (h : HostId) : s.statusByte h = statusLayout s h := by
  have hoffer : decide (0 < s.offerableCount h) = decide (∃ u, Offerable s h u) :=
    decide_eq_decide.mpr (offerableCount_pos_iff s h)
  have hnotice : (!(s.host h).queue.isEmpty) = decide ((s.host h).queue ≠ []) := by
    cases (s.host h).queue <;> rfl
  have hsession : s.holdsSession h = s.session.any (fun x => decide (x.holder = h)) := by
    unfold State.holdsSession State.sessionHolder
    cases s.session <;> simp
  rw [State.statusByte, hoffer, hnotice, hsession, statusBits, statusLayout]

/-- Settles O18: the row has one branch for each of the three cases. -/
theorem transactionStartSamplesThePort : Obligations.TransactionStartSamplesThePort := by
  intro s h early
  cases hlow : (s.port h).csLow with
  | true =>
    have hrow : exec (.transactionStart h early) s = .next s := if_pos hlow
    exact ⟨s, hrow, fun _ _ => rfl, ⟨⟨rfl, rfl, rfl, rfl, rfl, rfl, rfl⟩, rfl, ⟨⟨rfl, rfl⟩, rfl⟩, ⟨rfl, rfl⟩, rfl, rfl, rfl⟩,
      fun _ => rfl, nofun, nofun, fun hnone => Port.misoPin_idle _ hnone⟩
  | false =>
    by_cases hdeaf : s.inReset = true ∨ (s.port h).recognising = false ∧ early = true
    · have hrow : exec (.transactionStart h early) s = .next (s.setPort h { s.port h with csLow := true }) := by
        simp [exec, execTransactionStart, hlow, hdeaf]
      obtain ⟨hothers, honly⟩ := onlyPort_setPort s h { s.port h with csLow := true }
      refine ⟨_, hrow, hothers, honly, nofun, fun _ _ => State.port_setPort_same _ _ _, fun _ hrelease hhears => ?_,
        fun hnone => Port.misoPin_idle _ hnone⟩
      rcases hdeaf with hreset | ⟨hmute, hearly⟩
      · exact absurd (hreset.symm.trans hrelease) nofun
      · rcases hhears with hhears | hhears
        · exact absurd (hmute.symm.trans hhears) nofun
        · exact absurd (hearly.symm.trans hhears) nofun
    · have hrow : exec (.transactionStart h early) s = .next (beginTransaction h s) := by
        simp [exec, execTransactionStart, hlow, hdeaf]
      obtain ⟨hothers, honly⟩ := onlyPort_setPort s h { s.port h with
        csLow := true, recognising := true
        transaction := some { status := s.statusByte h, reply := (s.port h).slot, placed := false } }
      have hport : (beginTransaction h s).port h = { s.port h with
          csLow := true, recognising := true
          transaction := some { status := statusLayout s h, reply := (s.port h).slot, placed := false } } := by
        rw [beginTransaction, State.port_setPort_same, statusByte_eq]
      refine ⟨_, hrow, hothers, honly, nofun, fun _ hdeaf' => absurd hdeaf' hdeaf, fun _ _ _ => ⟨hport, ?_⟩,
        fun hnone => Port.misoPin_idle _ hnone⟩
      rw [hport]
      exact Port.misoPin_driven _ { status := statusLayout s h, reply := (s.port h).slot, placed := false } rfl

/-! ### Bits and bytes -/

theorem byteOfBits_bitsOfByte (b : Byte) :
    byteOfBits (b.getLsbD 7) (b.getLsbD 6) (b.getLsbD 5) (b.getLsbD 4) (b.getLsbD 3) (b.getLsbD 2) (b.getLsbD 1)
      (b.getLsbD 0) = b := by
  revert b
  decide

theorem bitsOf_eq (b : Byte) : bitsOf b = bitsOfByte b := by
  simp [bitsOf, bitsOfByte, BitVec.getMsbD, List.range, List.range.loop]

/-- The bytes of a frame come back from its bits; what follows them is read as further bytes (R8). -/
theorem wholeBytes_bitsOfFrame (frame : List Byte) (tail : List Bool) :
    wholeBytes (bitsOfFrame frame ++ tail) = frame ++ wholeBytes tail := by
  induction frame with
  | nil => rfl
  | cons b frame ih =>
    calc wholeBytes (bitsOfFrame (b :: frame) ++ tail)
        = byteOfBits (b.getLsbD 7) (b.getLsbD 6) (b.getLsbD 5) (b.getLsbD 4) (b.getLsbD 3) (b.getLsbD 2) (b.getLsbD 1)
            (b.getLsbD 0) :: wholeBytes (bitsOfFrame frame ++ tail) := rfl
      _ = b :: (frame ++ wholeBytes tail) := by rw [byteOfBits_bitsOfByte, ih]

theorem bitsOfFrame_length (frame : List Byte) : (bitsOfFrame frame).length = 8 * frame.length := by
  induction frame with
  | nil => rfl
  | cons b frame ih =>
    have hcons : (bitsOfFrame (b :: frame)).length = 8 + (bitsOfFrame frame).length := by
      simp only [bitsOfFrame, List.flatMap_cons, List.length_append]
      rfl
    simp only [hcons, ih, List.length_cons]
    omega

theorem misoBits_eq (x : Transaction) (edges : Nat) :
    misoBits x edges = (bitsOfFrame (x.status :: x.reply.getD []) ++ List.replicate edges true).take edges := by
  rw [misoBits, bitsOfFrame, funext bitsOf_eq]

theorem byteOfBits_ne_filler (b7 b6 b5 b4 b3 b2 b1 b0 : Bool) :
    decide (byteOfBits b7 b6 b5 b4 b3 b2 b1 b0 ≠ 0xFF) = decide ([b7, b6, b5, b4, b3, b2, b1, b0] ≠ List.replicate 8 true) := by
  revert b7 b6 b5 b4 b3 b2 b1 b0
  decide

/-- A transaction carries a frame when its first eight bits are there and are not all ones (R174). -/
theorem carriesFrame_wholeBytes (mosi : List Bool) :
    carriesFrame (wholeBytes mosi) = (decide (8 ≤ mosi.length) && decide (mosi.take 8 ≠ List.replicate 8 true)) := by
  match mosi with
  | b7 :: b6 :: b5 :: b4 :: b3 :: b2 :: b1 :: b0 :: rest =>
    have hlength : 8 ≤ (b7 :: b6 :: b5 :: b4 :: b3 :: b2 :: b1 :: b0 :: rest).length := by simp
    rw [decide_eq_true hlength, Bool.true_and]
    exact byteOfBits_ne_filler b7 b6 b5 b4 b3 b2 b1 b0
  | [] | [_] | [_, _] | [_, _, _] | [_, _, _, _] | [_, _, _, _, _] | [_, _, _, _, _, _] | [_, _, _, _, _, _, _] => rfl

/-! ### The end of a transaction -/

theorem exec_transactionEnd {x : Transaction} (hlow : (s.port h).csLow = true) (htransaction : (s.port h).transaction = some x)
    (mosi : List Bool) : exec (.transactionEnd h mosi) s = .next (endTransaction h x mosi s) := by
  simp [exec, execTransactionEnd, hlow, htransaction]

/-- An overrun shown in a whole status byte is cleared (R173, R175). -/
theorem Port.overrun_shifted (p : Port) (x : Transaction) (edges : Nat) :
    (p.shifted x edges).overrun = (p.overrun && !(decide (8 ≤ edges) && x.status.getLsbD 1)) := by
  change (if 8 ≤ edges ∧ showsOverrun x.status = true then false else p.overrun) =
    (p.overrun && !(decide (8 ≤ edges) && showsOverrun x.status))
  by_cases hwhole : 8 ≤ edges <;> cases showsOverrun x.status <;> simp [hwhole]

/-- The port after a frame at an idle port (R2, R176). -/
def Port.framed (p : Port) (running : Bool) (turn : Nat) (frame : List Byte) : Port :=
  if running then { p with work := judgedWork turn frame, rx := [], slot := none }
  else { p with work := .unjudged, rx := frame, slot := none }

theorem takeFrame_eq (frame : List Byte) (s : State) (h : HostId) :
    takeFrame h frame s = s.setPort h ((s.port h).framed s.refclk s.nextTurn frame) := by
  unfold takeFrame Port.framed setWork
  cases s.refclk <;> rfl

theorem nextTurn_congr {s t : State} (hwork : ∀ g, (t.port g).work = (s.port g).work) : t.nextTurn = s.nextTurn := by
  simp only [State.nextTurn, State.turnAt, hwork]

theorem nextTurn_shifted (x : Transaction) (edges : Nat) (s : State) (h : HostId) :
    (s.setPort h ((s.port h).shifted x edges)).nextTurn = s.nextTurn := by
  refine nextTurn_congr fun g => ?_
  by_cases hg : g = h
  · rw [hg, State.port_setPort_same]
    rfl
  · rw [State.port_setPort_ne _ _ _ _ hg]

/-- A transaction that carries a frame to an idle port. -/
theorem endTransaction_of_taken {x : Transaction} {mosi : List Bool} (hcarries : carriesFrame (wholeBytes mosi) = true)
    (hidle : (s.port h).work = .idle) :
    endTransaction h x mosi s = s.setPort h
      (((s.port h).shifted x mosi.length).framed s.refclk s.nextTurn (keptFrame (wholeBytes mosi))) := by
  have hwork : ((s.setPort h ((s.port h).shifted x mosi.length)).port h).work = .idle := by
    rw [State.port_setPort_same]
    exact hidle
  have hreceive : ∀ frame t, (State.port t h).work = .idle → receiveFrame h frame t = takeFrame h frame t := by
    intro frame t ht
    simp [receiveFrame, ht]
  simp only [endTransaction, hcarries, if_true]
  rw [hreceive _ _ hwork, takeFrame_eq, State.setPort_setPort, State.port_setPort_same, nextTurn_shifted]
  rfl

/-- A transaction that carries a frame to a busy port. -/
theorem endTransaction_of_overrun {x : Transaction} {mosi : List Bool} (hcarries : carriesFrame (wholeBytes mosi) = true)
    (hbusy : (s.port h).work ≠ .idle) :
    endTransaction h x mosi s = s.setPort h { (s.port h).shifted x mosi.length with overrun := true } := by
  have hreceive : ∀ frame t, (State.port t h).work ≠ .idle → receiveFrame h frame t = overrunPort h t := by
    intro frame t ht
    unfold receiveFrame
    cases hw : (t.port h).work <;> simp_all
  simp only [endTransaction, hcarries, if_true]
  rw [hreceive _ _ (by rw [State.port_setPort_same]; exact hbusy), overrunPort, State.setPort_setPort,
    State.port_setPort_same]

/-- A transaction that carries none. -/
theorem endTransaction_of_none {x : Transaction} {mosi : List Bool} (hcarries : carriesFrame (wholeBytes mosi) = false) :
    endTransaction h x mosi s = s.setPort h ((s.port h).shifted x mosi.length).cleared := by
  simp only [endTransaction, hcarries, Bool.false_eq_true, if_false]
  rw [State.setPort_setPort, State.port_setPort_same]

/-- The work that the port keeps, and the receive buffer, after a transaction without a frame. -/
theorem Port.cleared_eq (p : Port) : p.cleared = { p with rx := if p.work = .unjudged then p.rx else [] } := by
  obtain ⟨csLow, recognising, transaction, rx, work, slot, overrun, miso⟩ := p
  cases work <;> rfl

theorem requestFrame_carries (rt : RequestTag) (req : Request) (more : List Byte) :
    carriesFrame (requestFrame rt req ++ more) = true := by
  cases req <;> rfl

theorem keptFrame_requestFrame (rt : RequestTag) (req : Request) (more : List Byte) :
    keptFrame (requestFrame rt req ++ more) = requestFrame rt req := by
  have hkept : keptFrame (requestFrame rt req ++ more) =
      (requestFrame rt req ++ more).take (3 + headerCount (rt ++ BitVec.ofNat 4 (requestArgs req).length)) := rfl
  rw [hkept, headerCount_of_request, List.take_left' (requestFrame_length rt req ▸ by omega)]

/-- Settles O19: the bits read back as the frame, and the frame as the request. -/
theorem transactionEndTakesARequest : Obligations.TransactionEndTakesARequest := by
  intro s h x rt req tail hlow htransaction hidle
  have hbytes := wholeBytes_bitsOfFrame (requestFrame rt req) tail
  have hcarries := requestFrame_carries rt req (wholeBytes tail)
  rw [← hbytes] at hcarries
  have hlength : (bitsOfFrame (requestFrame rt req) ++ tail).length = 8 * (requestFrame rt req).length + tail.length := by
    rw [List.length_append, bitsOfFrame_length]
  have hedges : 8 ≤ 8 * (requestFrame rt req).length + tail.length := by
    have := requestFrame_length rt req
    omega
  have hend := endTransaction_of_taken (x := x) hcarries hidle
  rw [hbytes, keptFrame_requestFrame, hlength] at hend
  obtain ⟨hothers, honly⟩ := onlyPort_setPort s h
    (((s.port h).shifted x (8 * (requestFrame rt req).length + tail.length)).framed s.refclk s.nextTurn (requestFrame rt req))
  refine ⟨_, exec_transactionEnd hlow htransaction _, hend ▸ hothers, hend ▸ honly, s.nextTurn, laterTurn_nextTurn s, ?_, ?_⟩
  · rw [hend, State.port_setPort_same]
    have hjudged : judgedWork s.nextTurn (requestFrame rt req) = .taken rt req s.nextTurn := by
      rw [judgedWork, requestFramesReadBack rt req]
    cases hclock : s.refclk <;>
      simp [Port.framed, Port.shifted, hjudged, misoBits_eq, hedges, showsOverrun]
  · rw [hend, State.port_setPort_same]
    refine Port.misoPin_idle _ ?_
    cases s.refclk <;> rfl

/-- Settles O20: the bits tell whether the transaction carries a frame, and no frame is taken at a busy port. -/
theorem transactionEndWithoutTaking : Obligations.TransactionEndWithoutTaking := by
  intro s h x mosi hlow htransaction hnone
  have hrow := exec_transactionEnd hlow htransaction mosi
  have hcarries := carriesFrame_wholeBytes mosi
  by_cases hframe : 8 ≤ mosi.length ∧ mosi.take 8 ≠ List.replicate 8 true
  · have hbusy : (s.port h).work ≠ .idle := by
      rcases hnone with hshort | hfiller | hbusy
      · omega
      · exact absurd hfiller hframe.2
      · exact hbusy
    rw [decide_eq_true hframe.1, decide_eq_true hframe.2] at hcarries
    rw [endTransaction_of_overrun hcarries hbusy] at hrow
    obtain ⟨hothers, honly⟩ := onlyPort_setPort s h { (s.port h).shifted x mosi.length with overrun := true }
    refine ⟨_, hrow, hothers, honly, ?_⟩
    rw [State.port_setPort_same]
    refine ⟨rfl, rfl, rfl, rfl, misoBits_eq x _, Port.misoPin_idle _ rfl, ?_, fun h' => ?_, fun _ => ⟨rfl, rfl⟩⟩
    · simp [Port.shifted, Option.isSome_iff_ne_none]
    · rcases h' with hshort | hfiller
      · omega
      · exact absurd hfiller hframe.2
  · have hno : (decide (8 ≤ mosi.length) && decide (mosi.take 8 ≠ List.replicate 8 true)) = false := by
      rw [← Bool.decide_and, decide_eq_false hframe]
    rw [endTransaction_of_none (hcarries.trans hno), Port.cleared_eq] at hrow
    obtain ⟨hothers, honly⟩ := onlyPort_setPort s h { (s.port h).shifted x mosi.length with
      rx := if ((s.port h).shifted x mosi.length).work = .unjudged then ((s.port h).shifted x mosi.length).rx else [] }
    refine ⟨_, hrow, hothers, honly, ?_⟩
    rw [State.port_setPort_same]
    refine ⟨rfl, rfl, rfl, rfl, misoBits_eq x _, Port.misoPin_idle _ rfl, ?_, fun _ => ⟨Port.overrun_shifted _ _ _, rfl⟩,
      fun h' => absurd h' hframe⟩
    simp [Port.shifted, Option.isSome_iff_ne_none]

/-! ### Refused frames -/

/-- The bytes that the port does not keep are not judged (R174, R176). -/
theorem checkFrame_keptFrame (bytes : List Byte) : checkFrame (keptFrame bytes) = checkFrame bytes := by
  match bytes with
  | [] | [_] => rfl
  | c :: header :: rest =>
    have hkept : keptFrame (c :: header :: rest) = c :: header :: rest.take (headerCount header + 1) := by
      rw [keptFrame, show 3 + headerCount header = headerCount header + 1 + 1 + 1 from by omega]
      rfl
    have hargs : (rest.take (headerCount header + 1)).take (headerCount header) = rest.take (headerCount header) := by
      rw [List.take_take, Nat.min_eq_left (Nat.le_succ _)]
    have hcrc : (rest.take (headerCount header + 1))[headerCount header]? = rest[headerCount header]? :=
      List.getElem?_take_of_lt (Nat.lt_succ_self _)
    have hshort : (rest.take (headerCount header + 1)).length < headerCount header + 1 ↔
        rest.length < headerCount header + 1 := by
      rw [List.length_take]
      omega
    rw [hkept]
    simp only [checkFrame, hargs, hcrc, hshort]

theorem argumentCount_of_row : ∀ row ∈ commandTable, argumentCount row.1 = some row.2 := by decide

theorem argumentCount_of_no_row : ∀ c : Byte, (∀ row ∈ commandTable, row.1 ≠ c) → argumentCount c = none := by
  decide +kernel

theorem headerTag_eq (header : Byte) : headerTag header = BitVec.ofNat 4 (header.toNat / 16) := by
  revert header
  decide

/-- The four refusals of a frame with a header byte, in the order of R176. -/
theorem checkFrame_short {c header : Byte} {rest : List Byte} (hshort : rest.length < headerCount header + 1) :
    checkFrame (c :: header :: rest) = .fault (headerTag header) c .short :=
  if_pos hshort

theorem checkFrame_crc {c header : Byte} {rest : List Byte} (hlength : headerCount header + 1 ≤ rest.length)
    (hcrc : rest[headerCount header]? ≠ some (crc8 (c :: header :: rest.take (headerCount header)))) :
    checkFrame (c :: header :: rest) = .fault (headerTag header) c .crc := by
  simp only [checkFrame, Nat.not_lt.mpr hlength, hcrc, if_false, if_true, ne_eq, not_false_eq_true]

theorem checkFrame_of_crc {c header : Byte} {rest : List Byte}
    (hcrc : rest[headerCount header]? = some (crc8 (c :: header :: rest.take (headerCount header)))) :
    (argumentCount c = none → checkFrame (c :: header :: rest) = .fault (headerTag header) c .command) ∧
    ∀ k, argumentCount c = some k → k ≠ headerCount header →
      checkFrame (c :: header :: rest) = .fault (headerTag header) c .count := by
  have hlength : ¬ rest.length < headerCount header + 1 := by
    have := (List.getElem?_eq_some_iff.mp hcrc).1
    omega
  constructor
  · intro hcommand
    simp [checkFrame, hlength, hcrc, hcommand]
  · intro k hcount hk
    simp [checkFrame, hlength, hcrc, hcount, hk]

/-- The FRAME_ERROR reply of a refused frame waits at the port (R176). -/
theorem judgedWork_of_fault {turn : Nat} {bytes : List Byte} {rt : RequestTag} {c : Byte} {why : FrameFault}
    (hfault : checkFrame bytes = .fault rt c why) :
    judgedWork turn (keptFrame bytes) = .answered (replyFrame rt c { code := .frameError, data := [byte why.code] }) := by
  rw [judgedWork, checkFrame_keptFrame, hfault]
  rfl

/-- Settles O21: the checks of the frame, one by one. -/
theorem refusedFramesAreAnswered : Obligations.RefusedFramesAreAnswered := by
  intro s h x command header rest hlow htransaction hidle hclock hcommand
  have hend : ∀ frame : List Byte, carriesFrame frame = true → ∃ t, exec (.transactionEnd h (bitsOfFrame frame)) s = .next t ∧
      OnlyPortsChange s t ∧ OtherPortsKept h s t ∧ (t.port h).slot = none ∧ (t.port h).rx = [] ∧
      (t.port h).overrun = ((s.port h).overrun && !x.status.getLsbD 1) ∧
      (t.port h).work = judgedWork s.nextTurn (keptFrame frame) := by
    intro frame hcarries
    have hbytes : wholeBytes (bitsOfFrame frame) = frame := by
      have hread := wholeBytes_bitsOfFrame frame []
      rwa [List.append_nil, show wholeBytes [] = [] from rfl, List.append_nil] at hread
    have hend := endTransaction_of_taken (s := s) (h := h) (x := x) (mosi := bitsOfFrame frame) (hbytes.symm ▸ hcarries) hidle
    rw [hbytes, hclock] at hend
    have hwhole : 8 ≤ (bitsOfFrame frame).length := by
      cases frame with
      | nil => exact absurd hcarries nofun
      | cons c frame =>
        rw [bitsOfFrame_length, List.length_cons]
        omega
    obtain ⟨hothers, honly⟩ := onlyPort_setPort s h
      (((s.port h).shifted x (bitsOfFrame frame).length).framed true s.nextTurn (keptFrame frame))
    have hoverrun := (s.port h).overrun_shifted x (bitsOfFrame frame).length
    rw [decide_eq_true hwhole, Bool.true_and] at hoverrun
    refine ⟨_, (exec_transactionEnd hlow htransaction _).trans (congrArg _ hend), honly, hothers, ?_⟩
    rw [State.port_setPort_same]
    exact ⟨rfl, rfl, hoverrun, rfl⟩
  have hcarries : ∀ more, carriesFrame (command :: more) = true := fun _ => decide_eq_true hcommand
  constructor
  · obtain ⟨t, hrow, honly, hothers, hslot, -, -, hwork⟩ := hend [command] (hcarries _)
    exact ⟨t, hrow, honly, hothers, hslot, hwork.trans (judgedWork_of_fault (why := .short) rfl)⟩
  · obtain ⟨t, hrow, honly, hothers, hslot, hrx, hoverrun, hwork⟩ := hend (command :: header :: rest) (hcarries _)
    rw [← headerTag_eq]
    refine ⟨t, hrow, honly, hothers, hslot, hrx, hoverrun, fun hshort => ?_, fun hlength hcrc => ?_, fun hcrc hnone => ?_,
      fun hcrc ⟨row, hmem, hcode, hcount⟩ => ?_⟩
    · exact hwork.trans (judgedWork_of_fault (checkFrame_short hshort))
    · exact hwork.trans (judgedWork_of_fault (checkFrame_crc hlength hcrc))
    · exact hwork.trans (judgedWork_of_fault ((checkFrame_of_crc hcrc).1 (argumentCount_of_no_row _ hnone)))
    · exact hwork.trans (judgedWork_of_fault
        ((checkFrame_of_crc hcrc).2 row.2 (hcode ▸ argumentCount_of_row row hmem) hcount))

end Sys2Proof.Machine
end

section
/-! Requests at their ports: refusals, order of taking and placement (O22, O25 to O27). -/

namespace Sys2Proof.Machine

variable {s t : State} {h : HostId} {rt : RequestTag} {req : Request}

/-! ### A request row -/

theorem exec_row_of_serves {c : Instr} (hrow : rowRequest c = some (h, rt, req)) (hserves : Serves s h rt req) :
    exec c s = .next (setWork h (.answered (replyFrame rt (requestCode req) (carryOut h req s).2)) (carryOut h req s).1) := by
  rw [exec_request_row c h rt req s hrow, serve_of_serves h rt req s hserves]
  rfl

/-- A request that its rule answers with no effect. -/
theorem exec_row_alone {c : Instr} {a : Answer} (hrow : rowRequest c = some (h, rt, req)) (hserves : Serves s h rt req)
    (hcarry : carryOut h req s = (s, a)) : ∃ t, exec c s = .next t ∧ AnswersAlone s t h rt req a.code a.data := by
  have hexec := exec_row_of_serves hrow hserves
  rw [hcarry] at hexec
  exact ⟨_, hexec, answersAlone_setWork s h rt req a⟩

theorem carryOut_of_refused {code : ResultCode} (hrefused : refusal (admissionOf req) (s.host h).presence = some code) :
    carryOut h req s = (s, bare code) := by
  simp [carryOut, hrefused]

theorem carryOut_of_admitted (hadmitted : refusal (admissionOf req) (s.host h).presence = none) :
    carryOut h req s = performRequest h req s := by
  simp [carryOut, hadmitted]

theorem settleAnswered_of_refused (s : State) {a : Answer} (ha : a.code ≠ .ok) : settleAnswered (s, a) = (s, a) :=
  if_neg ha

theorem settleAnswered_of_ok (s : State) {a : Answer} (ha : a.code = .ok) : settleAnswered (s, a) = (settle s, a) :=
  if_pos ha

/-! ### The presence check (R122) -/

theorem admissionOf_ne_always (ha : alwaysTaken req = false) : admissionOf req ≠ .always := by
  cases req with
  | leave manner =>
    intro h'
    by_cases hm : manner = 0
    · rw [admissionOf, if_pos hm] at h'
      cases h'
    · rw [admissionOf, if_neg hm] at h'
      cases h'
  | join => exact absurd ha nofun
  | peek => exact absurd ha nofun
  | takeNotice => exact absurd ha nofun
  | readRecord => exact absurd ha nofun
  | readSource => exact absurd ha nofun
  | readGroup => exact absurd ha nofun
  | readPolicy => exact absurd ha nofun
  | _ => exact nofun

theorem admissionOf_not_draining (ha : alwaysTaken req = false) (hd : takenWhileDraining req = false) :
    admissionOf req = .presentOnly := by
  cases req with
  | leave manner => simpa [takenWhileDraining, admissionOf] using hd
  | join => exact absurd ha nofun
  | peek => exact absurd ha nofun
  | takeNotice => exact absurd ha nofun
  | readRecord => exact absurd ha nofun
  | readSource => exact absurd ha nofun
  | readGroup => exact absurd ha nofun
  | readPolicy => exact absurd ha nofun
  | extend => exact absurd hd nofun
  | complete => exact absurd hd nofun
  | handback => exact absurd hd nofun
  | _ => rfl

theorem refusal_joined {p : Presence} (hp : p = .present ∨ p = .draining) : refusal .joined p = none := by
  rcases hp with rfl | rfl <;> rfl

theorem refusal_absent {a : Admission} (ha : a ≠ .always) : refusal a .absent = some .notJoined := by
  cases a with
  | always => exact absurd rfl ha
  | joined | presentOnly => rfl

theorem refusal_fenced {a : Admission} (ha : a ≠ .always) : refusal a .fenced = some .fenced := by
  cases a with
  | always => exact absurd rfl ha
  | joined | presentOnly => rfl

/-! ### Tokens -/

/-- A valid token is the one that R75 describes. -/
theorem validToken_eq_some_iff {tag epoch : Byte} {u : Tag} {c : Occurrence} :
    s.validToken h tag epoch = some (u, c) ↔ ValidToken s h tag epoch u ∧ s.occ u = some c := by
  constructor
  · intro hv
    obtain ⟨htag, hc, ⟨k, ms, hp⟩, hepoch⟩ := validToken_sound s h tag epoch u c hv
    exact ⟨⟨htag, hepoch, by simp [hc, hp]⟩, hc⟩
  · rintro ⟨⟨htag, hepoch, hheld⟩, hc⟩
    rw [hc, Option.any_some] at hheld
    split at hheld
    · rename_i holder k ms hp
      obtain rfl := of_decide_eq_true hheld
      exact validToken_complete s holder tag epoch u c k ms htag hc hp hepoch
    · cases hheld

theorem validToken_eq_none {tag epoch : Byte} (hnone : ∀ u, ¬ ValidToken s h tag epoch u) :
    s.validToken h tag epoch = none := by
  cases hv : s.validToken h tag epoch with
  | none => rfl
  | some p => exact absurd (validToken_eq_some_iff.mp hv).1 (hnone p.1)

/-- A claim with nothing to select is answered EMPTY (R76). -/
theorem claimRequest_of_nothing (hnone : ∀ l, ∀ u ∈ s.list l, ¬ Offerable s h u) :
    claimRequest h s = (s, bare .empty) := by
  have hselection : s.selection h = none := by
    rw [State.selection, List.findSome?_eq_none_iff]
    intro l _
    rw [List.find?_eq_none]
    exact fun u hu hoffer => hnone l u hu ((State.offerable_iff s h u).mp hoffer)
  simp [claimRequest, hselection]

/-- A token that is not valid is answered STALE (R75). -/
theorem carryOut_of_stale {tag epoch : Byte}
    (hreq : req = .extend tag epoch ∨ req = .complete tag epoch ∨ req = .handback tag epoch)
    (hjoined : (s.host h).presence = .present ∨ (s.host h).presence = .draining)
    (hnone : ∀ u, ¬ ValidToken s h tag epoch u) : carryOut h req s = (s, bare .stale) := by
  have hstale := validToken_eq_none hnone
  have hadmitted : refusal .joined (s.host h).presence = none := refusal_joined hjoined
  rcases hreq with rfl | rfl | rfl
  · rw [carryOut_of_admitted (req := .extend tag epoch) hadmitted, performRequest, extendRequest, hstale]
  · rw [carryOut_of_admitted (req := .complete tag epoch) hadmitted, performRequest, completeRequest, hstale]
    exact settleAnswered_of_refused s nofun
  · rw [carryOut_of_admitted (req := .handback tag epoch) hadmitted, performRequest, handbackRequest, hstale]
    exact settleAnswered_of_refused s nofun

/-- Settles O25: each of the three refusals is answered over the state it found. -/
theorem refusalsChangeNothing : Obligations.RefusalsChangeNothing := by
  refine ⟨fun s c h rt req code hrow hserves halways hcode => ?_, fun s h rt hserves hpresent hnone => ?_,
    fun s c h rt req tag epoch hrow hreq hserves hjoined hnone => ?_⟩
  · have hne := admissionOf_ne_always halways
    refine exec_row_alone (a := bare code) hrow hserves (carryOut_of_refused ?_)
    rcases hcode with ⟨hp, rfl⟩ | ⟨hp, rfl⟩ | ⟨hp, hd, rfl⟩
    · rw [hp, refusal_absent hne]
    · rw [hp, refusal_fenced hne]
    · rw [hp, admissionOf_not_draining halways hd]
      rfl
  · refine exec_row_alone (a := bare .empty) rfl hserves ?_
    rw [carryOut_of_present s h .claim hpresent, performRequest, claimRequest_of_nothing hnone]
    exact settleAnswered_of_refused s nofun
  · exact exec_row_alone (a := bare .stale) hrow hserves (carryOut_of_stale hreq hjoined hnone)

/-! ### Rows that are not carried out -/

/-- Settles O26: the case analysis of a request row at its port. -/
theorem requestRowsNotCarriedOut : Obligations.RequestRowsNotCarriedOut := by
  intro s c h rt req hrow hrelease hnot
  rw [exec_request_row c h rt req s hrow]
  obtain ⟨hreset, -⟩ | ⟨-, bound, hcarried, -⟩ | ⟨-, hidle, -, hserve⟩ | ⟨-, frame, hcarried, hserve⟩ |
    ⟨-, hbusy, -, hnotcarried, hserve⟩ := serve_cases s h rt req
  · exact absurd (hreset.symm.trans hrelease) nofun
  · rcases hcarried with ⟨hidle, hclock, -⟩ | htaken
    · rcases hnot with ⟨-, hstopped⟩ | ⟨hbusy, -⟩
      · exact absurd (hclock.symm.trans hstopped) nofun
      · exact absurd hidle hbusy
    · rcases hnot with ⟨hidle, -⟩ | ⟨-, hnottaken⟩
      · exact absurd (htaken.symm.trans hidle) nofun
      · exact absurd htaken (hnottaken bound)
  · have hstopped : s.refclk = false := by
      rcases hnot with ⟨-, hstopped⟩ | ⟨hbusy, -⟩
      · exact hstopped
      · exact absurd hidle hbusy
    rw [takeFrame_eq, hstopped] at hserve
    obtain ⟨hothers, honly⟩ := onlyPort_setPort s h ((s.port h).framed false s.nextTurn (requestFrame rt req))
    exact ⟨_, congrArg _ hserve, hothers, honly, fun _ => State.port_setPort_same _ _ _,
      fun _ hcarried => absurd (hidle.symm.trans hcarried) nofun, fun hbusy => absurd hidle hbusy⟩
  · obtain ⟨hothers, honly⟩ := onlyPort_setPort s h { s.port h with work := .answered frame }
    refine ⟨_, congrArg _ hserve, hothers, honly, fun hidle => absurd (hidle.symm.trans hcarried) nofun,
      fun frame' hcarried' => ?_, fun _ hno => absurd hcarried (hno frame)⟩
    obtain ⟨-, -, rfl⟩ := PortWork.carried.inj (hcarried.symm.trans hcarried')
    exact State.port_setPort_same _ _ _
  · obtain ⟨hothers, honly⟩ := onlyPort_setPort s h { s.port h with overrun := true }
    exact ⟨_, congrArg _ hserve, hothers, honly, fun hidle => absurd hidle hbusy,
      fun frame hcarried => absurd hcarried (hnotcarried frame), fun _ _ => State.port_setPort_same _ _ _⟩

/-! ### The order of taking -/

theorem carryOutAhead_of_taken {g : HostId} {turn : Nat} (hwork : (s.port g).work = .taken rt req turn) :
    carryOutAhead g s =
      setWork g (.carried rt req (replyFrame rt (requestCode req) (carryOut g req s).2)) (carryOut g req s).1 := by
  simp [carryOutAhead, hwork]

theorem port_carryOutAhead_ne {f g : HostId} (hf : f ≠ g) (s : State) : (carryOutAhead g s).port f = s.port f := by
  unfold carryOutAhead
  split
  · simp [setWork, hf]
  · rfl

theorem inReset_carryOut (s : State) (h : HostId) (req : Request) : (carryOut h req s).1.inReset = s.inReset := by
  have hb := bench_carryOut s h req
  simp only [State.bench, Prod.mk.injEq] at hb
  simp only [State.inReset, hb]

theorem refclk_carryOut (s : State) (h : HostId) (req : Request) : (carryOut h req s).1.refclk = s.refclk := by
  have hb := bench_carryOut s h req
  simp only [State.bench, Prod.mk.injEq] at hb
  exact hb.1

theorem clock_carryOutAhead (g : HostId) (s : State) :
    (carryOutAhead g s).inReset = s.inReset ∧ (carryOutAhead g s).refclk = s.refclk := by
  unfold carryOutAhead
  split
  · exact ⟨inReset_carryOut _ _ _, refclk_carryOut _ _ _⟩
  · exact ⟨rfl, rfl⟩

theorem turnAt_of_taken {g : HostId} {turn : Nat} (hwork : (s.port g).work = .taken rt req turn) :
    s.turnAt g = some turn := by
  simp [State.turnAt, hwork]

theorem turnAt_carryOutAhead (f g : HostId) (s : State) :
    (carryOutAhead g s).turnAt f = if f = g then none else s.turnAt f := by
  by_cases hf : f = g
  · subst hf
    cases hw : (s.port f).work <;> simp [carryOutAhead, State.turnAt, setWork, hw]
  · rw [if_neg hf, State.turnAt, port_carryOutAhead_ne hf, State.turnAt]

theorem waitingBefore_carryOutAhead (g : HostId) (s : State) (b : Nat) :
    (carryOutAhead g s).waitingBefore b = (s.waitingBefore b).filter (fun f => decide (f ≠ g)) := by
  rw [State.waitingBefore, State.waitingBefore, List.filter_filter]
  refine List.filter_congr fun f _ => ?_
  rw [turnAt_carryOutAhead]
  by_cases hf : f = g <;> simp [hf]

theorem mem_waitingBefore_of_firstBefore {g : HostId} {b : Nat} (hg : g ∈ s.firstBefore b) : g ∈ s.waitingBefore b :=
  (List.mem_filter.mp hg).1

theorem waitingBefore_carryOutAhead_lt {g : HostId} {b : Nat} (hg : g ∈ s.firstBefore b) :
    ((carryOutAhead g s).waitingBefore b).length < (s.waitingBefore b).length := by
  rw [waitingBefore_carryOutAhead, List.length_filter_lt_length_iff_exists]
  exact ⟨g, mem_waitingBefore_of_firstBefore hg, by simp⟩

theorem firstBefore_eq_nil (hnone : s.waitingBefore b = []) : s.firstBefore b = [] := by
  rw [State.firstBefore, hnone]
  rfl

theorem chosen_mem {g g' : HostId} {gs : List HostId} (i : Nat) :
    (g :: g' :: gs).getD (i % (gs.length + 2)) g ∈ g :: g' :: gs := by
  have hlt : i % (gs.length + 2) < (g :: g' :: gs).length := Nat.mod_lt _ (Nat.succ_pos _)
  rw [List.getD_eq_getElem _ _ hlt]
  exact List.getElem_mem hlt

/-- The bound on the number of requests is no limit once it is the number of those that wait. -/
theorem carryOutBefore_succ (b : Nat) : ∀ (k : Nat) (s : State), (s.waitingBefore b).length ≤ k →
    carryOutBefore (k + 1) b s = carryOutBefore k b s := by
  intro k
  induction k with
  | zero =>
    intro s hk
    have hfirst := firstBefore_eq_nil (List.eq_nil_of_length_eq_zero (Nat.le_zero.mp hk))
    simp [carryOutBefore, hfirst]
  | succ k ih =>
    intro s hk
    rw [carryOutBefore, carryOutBefore.eq_def (k + 1)]
    dsimp only
    cases hfirst : s.firstBefore b with
    | nil => rfl
    | cons g gs =>
      cases gs with
      | nil =>
        have hlt := waitingBefore_carryOutAhead_lt (s := s) (g := g) (b := b) (by rw [hfirst]; exact List.mem_cons_self)
        exact ih _ (by omega)
      | cons g' gs =>
        have hmem : (g :: g' :: gs).getD (Config.eventOrder s.choices % (gs.length + 2)) g ∈ s.firstBefore b := by
          rw [hfirst]
          exact chosen_mem _
        have hlt := waitingBefore_carryOutAhead_lt (s := { s with choices := s.choices + 1 }) hmem
        have hsame : ({ s with choices := s.choices + 1 } : State).waitingBefore b = s.waitingBefore b := rfl
        rw [hsame] at hlt
        exact ih _ (by omega)

/-- Two turns that no request lies between are caught up with alike. -/
theorem carryOutBefore_bound {b b' : Nat} : ∀ (k : Nat) (s : State),
    (∀ g j, s.turnAt g = some j → (j < b ↔ j < b')) → carryOutBefore k b s = carryOutBefore k b' s := by
  intro k
  induction k with
  | zero => exact fun _ _ => rfl
  | succ k ih =>
    intro s hb
    have hwaiting : s.waitingBefore b = s.waitingBefore b' := by
      refine List.filter_congr fun g _ => ?_
      cases hg : s.turnAt g with
      | none => rfl
      | some j => simp [hb g j hg]
    have hfirst : s.firstBefore b = s.firstBefore b' := by rw [State.firstBefore, hwaiting, State.firstBefore]
    have hnext : ∀ (g : HostId) (u : State), (∀ f, u.turnAt f = s.turnAt f) →
        ∀ f j, (carryOutAhead g u).turnAt f = some j → (j < b ↔ j < b') := by
      intro g u hu f j hj
      rw [turnAt_carryOutAhead, hu] at hj
      split at hj
      · cases hj
      · exact hb f j hj
    rw [carryOutBefore, carryOutBefore, hfirst]
    split
    · rfl
    · exact ih _ (hnext _ s fun _ => rfl)
    · exact ih _ (hnext _ { s with choices := s.choices + 1 } fun _ => rfl)

theorem hostIds_filter_eq : ∀ g : HostId, hostIds.filter (fun f => decide (f = g)) = [g] := by decide

/-- The request taken first of all waits alone at the head. -/
theorem firstBefore_of_first {g : HostId} {turn b : Nat} (hwork : (s.port g).work = .taken rt req turn)
    (hfirst : ∀ f, f ≠ g → takenBefore s g f = true) (hb : turn < b) : s.firstBefore b = [g] := by
  have hlater : ∀ f j, s.turnAt f = some j → f ≠ g → turn < j := by
    intro f j hj hf
    unfold State.turnAt at hj
    have hbefore := hfirst f hf
    split at hj
    · rename_i hw
      cases hj
      simpa [takenBefore, hwork, hw] using hbefore
    · cases hj
  have hg : s.turnAt g = some turn := turnAt_of_taken hwork
  have hmem : ∀ f, f ∈ s.waitingBefore b ↔ ∃ j, s.turnAt f = some j ∧ j < b := by
    intro f
    rw [State.waitingBefore, List.mem_filter, Option.any_eq_true]
    simp [hostIds]
  have hfilter : s.firstBefore b = hostIds.filter (fun f => decide (f = g)) := by
    rw [State.firstBefore, State.waitingBefore, List.filter_filter]
    refine List.filter_congr fun f _ => ?_
    rw [Bool.eq_iff_iff, Bool.and_eq_true, List.all_eq_true, decide_eq_true_eq, Option.any_eq_true]
    constructor
    · rintro ⟨hall, j, hj, -⟩
      by_contra hf
      have hle := of_decide_eq_true (hall g ((hmem g).mpr ⟨turn, hg, hb⟩))
      rw [hj, hg] at hle
      exact absurd (hlater f j hj hf) (Nat.not_lt.mpr hle)
    · rintro rfl
      refine ⟨fun w hw => decide_eq_true ?_, turn, hg, decide_eq_true hb⟩
      obtain ⟨j, hj, -⟩ := (hmem w).mp hw
      rw [hg, hj]
      by_cases hwf : w = f
      · subst hwf
        exact Nat.le_of_eq (Option.some.inj (hg.symm.trans hj))
      · exact Nat.le_of_lt (hlater w j hj hwf)
  rw [hfilter, hostIds_filter_eq]

/-- The request that waits first of all is carried out before any request of a later turn. -/
theorem catchUp_of_first {g : HostId} {turn b : Nat} (hwork : (s.port g).work = .taken rt req turn)
    (hfirst : ∀ f, f ≠ g → takenBefore s g f = true) (hb : turn < b) :
    catchUp b s = catchUp b (carryOutAhead g s) := by
  have hhead := firstBefore_of_first hwork hfirst hb
  have hg : g ∈ s.firstBefore b := by
    rw [hhead]
    exact List.mem_singleton_self g
  have hle : (s.waitingBefore b).length ≤ 4 := List.length_filter_le _ hostIds
  have hlt := waitingBefore_carryOutAhead_lt hg
  calc catchUp b s = carryOutBefore 4 b s := rfl
    _ = carryOutBefore 3 b (carryOutAhead g s) := by rw [carryOutBefore, hhead]
    _ = carryOutBefore 4 b (carryOutAhead g s) := (carryOutBefore_succ b 3 _ (by omega)).symm

theorem lt_nextTurn {g : HostId} {j : Nat} (hj : s.turnAt g = some j) : j < s.nextTurn :=
  (laterTurn_iff s s.nextTurn).mp (laterTurn_nextTurn s) g j hj

theorem turn_lt_of_takenBefore {g : HostId} {turn k : Nat} {rt' : RequestTag} {req' : Request}
    (hwork : (s.port g).work = .taken rt req turn) (hother : (s.port h).work = .taken rt' req' k)
    (hbefore : takenBefore s g h = true) : turn < k := by
  simpa [takenBefore, hwork, hother] using hbefore

/-- With the first request of all carried out, a row that is carried out and a placement find what they would make
of it themselves. -/
theorem serve_of_first {g : HostId} {turn : Nat} {rt' : RequestTag} {req' : Request} (hrelease : s.inReset = false)
    (hwork : (s.port g).work = .taken rt req turn) (hfirst : ∀ f, f ≠ g → takenBefore s g f = true) (hg : g ≠ h)
    (hcarried : (s.port h).work = .idle ∧ s.refclk = true ∨ ∃ k, (s.port h).work = .taken rt' req' k) :
    serve h rt' req' s = serve h rt' req' (carryOutAhead g s) := by
  have hport := port_carryOutAhead_ne (s := s) hg.symm
  obtain ⟨hreset, hclock⟩ := clock_carryOutAhead g s
  rcases hcarried with ⟨hidle, hrunning⟩ | ⟨k, htaken⟩
  · have hbound : catchUp s.nextTurn (carryOutAhead g s) = catchUp (carryOutAhead g s).nextTurn (carryOutAhead g s) := by
      refine carryOutBefore_bound _ _ fun f j hj => ?_
      refine iff_of_true ?_ (lt_nextTurn hj)
      rw [turnAt_carryOutAhead] at hj
      split at hj
      · cases hj
      · exact lt_nextTurn hj
    have hcatch := (catchUp_of_first hwork hfirst (lt_nextTurn (turnAt_of_taken hwork))).trans hbound
    simp [serve, hport, hreset, hclock, hrelease, hidle, hrunning, hcatch]
  · have hcatch := catchUp_of_first hwork hfirst (turn_lt_of_takenBefore hwork htaken (hfirst h hg.symm))
    simp [serve, hport, hreset, hrelease, htaken, hcatch]

theorem placement_of_first {g : HostId} {turn k : Nat} {rt' : RequestTag} {req' : Request}
    (hwork : (s.port g).work = .taken rt req turn) (hfirst : ∀ f, f ≠ g → takenBefore s g f = true) (hg : g ≠ h)
    (htaken : (s.port h).work = .taken rt' req' k) : placement h s = placement h (carryOutAhead g s) := by
  have hport := port_carryOutAhead_ne (s := s) hg.symm
  have hcatch := catchUp_of_first hwork hfirst (turn_lt_of_takenBefore hwork htaken (hfirst h hg.symm))
  simp [placement, hport, htaken, hcatch]

theorem exec_replyPlacement (hrelease : s.inReset = false) : exec (.replyPlacement h) s = .next (placement h s) := by
  simp [exec, execReplyPlacement, hrelease]

theorem setPort_setWork (s : State) (h : HostId) (w w' : PortWork) :
    (setWork h w s).setPort h { (setWork h w s).port h with work := w' } = setWork h w' s := by
  simp [setWork, State.setPort_setPort]

/-- A request that no other precedes is carried out by its row at once. -/
theorem serve_of_taken_first {turn : Nat} (hrelease : s.inReset = false) (hwork : (s.port h).work = .taken rt req turn)
    (hturn : InTurn s h) : serve h rt req s = answerRequest h rt req s :=
  serve_of_serves h rt req s ⟨hrelease, .inr (by simp [hwork]), hturn⟩

theorem catchUp_of_inTurn {turn : Nat} (hwork : (s.port h).work = .taken rt req turn) (hturn : InTurn s h) :
    catchUp turn s = s := by
  refine catchUp_of_none s turn fun g k hk => ?_
  by_cases hg : g = h
  · subst hg
    rw [turnAt_of_taken hwork] at hk
    exact Nat.le_of_eq (Option.some.inj hk)
  · have hbefore := hturn g hg
    unfold State.turnAt at hk
    split at hk
    · rename_i hw
      cases hk
      simpa [takenBefore, hw, hwork] using hbefore
    · cases hk

theorem inTurn_of_first {g : HostId} {turn : Nat} (hwork : (s.port g).work = .taken rt req turn)
    (hfirst : ∀ f, f ≠ g → takenBefore s g f = true) : InTurn s g := by
  intro f hf
  have hbefore := hfirst f hf
  unfold takenBefore at hbefore ⊢
  rw [hwork] at hbefore ⊢
  cases hw : (s.port f).work with
  | taken rt' req' k =>
    simp only [hw, decide_eq_true_eq, decide_eq_false_iff_not, Nat.not_lt] at hbefore ⊢
    exact Nat.le_of_lt hbefore
  | _ => rfl

/-- Settles O27: the state after the row of `g`, its answer marked as carried out ahead, is the one that a later row makes
of it first. -/
theorem requestsTakeEffectInOrder : Obligations.RequestsTakeEffectInOrder := by
  intro s t g h rt req turn c frame hrelease hwork hfirst hrow hexec hframe hg
  rw [exec_request_row c g rt req s hrow, serve_of_taken_first hrelease hwork (inTurn_of_first hwork hfirst)] at hexec
  obtain rfl := Host.Outcome.next.inj hexec
  have hframe' : replyFrame rt (requestCode req) (carryOut g req s).2 = frame := by
    simpa [answerRequest, setWork] using hframe
  have hahead : (answerRequest g rt req s).setPort g
      { (answerRequest g rt req s).port g with work := .carried rt req frame } = carryOutAhead g s := by
    rw [carryOutAhead_of_taken hwork, hframe']
    exact setPort_setWork _ _ _ _
  rw [hahead]
  refine ⟨fun c' rt' req' hrow' hcarried => ?_, fun rt' req' k htaken => ?_⟩
  · rw [exec_request_row c' h rt' req' s hrow', exec_request_row c' h rt' req' _ hrow',
      serve_of_first hrelease hwork hfirst hg hcarried]
  · obtain ⟨hreset, -⟩ := clock_carryOutAhead g s
    rw [exec_replyPlacement hrelease, exec_replyPlacement (hreset.trans hrelease), placement_of_first hwork hfirst hg htaken]

/-! ### Reply placement -/

theorem placement_of_answered {frame : List Byte}
    (hwork : (s.port h).work = .answered frame ∨ ∃ rt req, (s.port h).work = .carried rt req frame) :
    placement h s = placeReply h frame s := by
  rcases hwork with hw | ⟨rt, req, hw⟩ <;> simp [placement, hw]

/-- A reply placed from the port that waits with it, and from the port as it stood before. -/
theorem placeReply_setWork {w : PortWork} {frame : List Byte} (hrx : (s.port h).rx = []) :
    placeReply h frame (setWork h w s) = placeReply h frame s := by
  simp [placeReply, setWork, State.setPort_setPort, hrx]

/-- The receive buffer is empty when requests that waited have been carried out, if it was before. -/
theorem rx_catchUp (b : Nat) (hrx : (s.port h).rx = []) : ((catchUp b s).port h).rx = [] := by
  refine catchUp_keeps s (fun u => (u.port h).rx = []) (fun _ hu => hu) (fun g u hu => ?_) b hrx
  by_cases hg : h = g
  · subst hg
    unfold carryOutAhead
    split
    · simp [setWork]
    · exact hu
  · rw [port_carryOutAhead_ne hg]
    exact hu

theorem inReset_catchUp (b : Nat) (s : State) : (catchUp b s).inReset = s.inReset :=
  catchUp_keeps s (fun u => u.inReset = s.inReset) (fun _ hu => hu) (fun g _ hu => (clock_carryOutAhead g _).1.trans hu) b rfl

/-- Settles O22: what waits is placed; a taken request is carried out first, as its row does. -/
theorem replyPlacementEndsTheCycle : Obligations.ReplyPlacementEndsTheCycle := by
  refine ⟨fun s h frame hrelease hwork => ?_, fun s h hwork => ?_, fun s t h rt req turn c hrelease hwork hrx hrow hexec => ?_,
    fun s h rt manner turn hrelease hwork hturn hmanner0 hmanner1 hjoined => ?_⟩
  · have hrow := exec_replyPlacement (h := h) hrelease
    rw [placement_of_answered hwork] at hrow
    obtain ⟨hothers, honly⟩ := onlyPort_setPort s h { s.port h with
      work := .idle, slot := some frame
      transaction := (s.port h).transaction.map (fun x => { x with placed := true }) }
    exact ⟨_, hrow, State.port_setPort_same _ _ _, hothers, honly⟩
  · have hplacement : placement h s = s := by
      rcases hwork with hw | hw <;> simp [placement, hw]
    cases hreset : s.inReset with
    | true => simp [exec, execReplyPlacement, hreset]
    | false => rw [exec_replyPlacement hreset, hplacement]
  · have hserve : serve h rt req s = answerRequest h rt req (catchUp turn s) := by
      simp [serve, hrelease, hwork]
    rw [exec_request_row c h rt req s hrow, hserve] at hexec
    obtain rfl := Host.Outcome.next.inj hexec
    have hreset : (answerRequest h rt req (catchUp turn s)).inReset = false :=
      (inReset_carryOut _ h req).trans ((inReset_catchUp turn s).trans hrelease)
    have hrx' : ((carryOut h req (catchUp turn s)).1.port h).rx = [] := by
      rw [port_carryOut]
      exact rx_catchUp turn hrx
    have hplacement : placement h s = placeReply h
        (replyFrame rt (requestCode req) (carryOut h req (catchUp turn s)).2) (carryOut h req (catchUp turn s)).1 := by
      simp [placement, hwork]
    have hanswered : ((answerRequest h rt req (catchUp turn s)).port h).work =
        .answered (replyFrame rt (requestCode req) (carryOut h req (catchUp turn s)).2) := by
      simp [answerRequest, setWork]
    rw [exec_replyPlacement hrelease, exec_replyPlacement hreset, hplacement, placement_of_answered (.inl hanswered)]
    exact congrArg _ (placeReply_setWork hrx').symm
  · have hcatch := catchUp_of_inTurn hwork hturn
    have hadmission : admissionOf (.leave manner) = .joined := if_neg hmanner0
    have hcarry : carryOut h (.leave manner) s = (s, bare .badArg) := by
      rw [carryOut_of_admitted (by rw [hadmission]; exact refusal_joined hjoined), performRequest, leaveRequest,
        if_neg hmanner0, if_neg hmanner1]
      exact settleAnswered_of_refused s nofun
    have hplacement : placement h s = placeReply h (replyFrame rt 0x11 { code := .badArg, data := [] }) s := by
      simp only [placement, hwork, hcatch, hcarry]
      rfl
    have hrow := exec_replyPlacement (h := h) hrelease
    rw [hplacement] at hrow
    obtain ⟨hothers, honly⟩ := onlyPort_setPort s h { s.port h with
      work := .idle, slot := some (replyFrame rt 0x11 { code := .badArg, data := [] })
      transaction := (s.port h).transaction.map (fun x => { x with placed := true }) }
    exact ⟨_, hrow, State.port_setPort_same _ _ _, hothers, honly⟩

end Sys2Proof.Machine
end

section
/-! Requests with an effect of a few lines: the reads, TAKE_NOTICE, SET_FLOOR, EXTEND and RAISE (O32, O34, O35, O38,
O44, O45). -/

namespace Sys2Proof.Machine

variable {s m : State} {h : HostId} {rt : RequestTag} {req : Request} {a : Answer}

/-! ### A request that is carried out -/

/-- What a row leaves: the state its request leaves, with the answer at the port. -/
theorem exec_row_carried {c : Instr} (hrow : rowRequest c = some (h, rt, req)) (hserves : Serves s h rt req)
    (hcarry : carryOut h req s = (m, a)) :
    exec c s = .next (setWork h (.answered (replyFrame rt (requestCode req) a)) m) := by
  have hexec := exec_row_of_serves hrow hserves
  rwa [hcarry] at hexec

theorem byte_toNat (b : Byte) : byte b.toNat = b := by simp [byte]

theorem byte_of_toNat {b : Byte} {n : Nat} (hb : b.toNat = n) : byte n = b := hb ▸ byte_toNat b

/-! ### READ_RECORD -/

theorem bytes16_remaining (x : Timer) : bytes16 (BitVec.ofNat 16 x.remaining) =
    match x with
    | .running k => bytes16 (BitVec.ofNat 16 k)
    | _ => [0, 0] := by
  cases x <;> rfl

/-- Byte 1 of READ_RECORD, with the timer running as R30 asks. -/
theorem recordFlags_eq {c : Occurrence} {x : Timer} (hruns : x.runs = decide (c.phase ≠ .pendingOpen)) :
    recordFlags c x = byte (64 * c.phase.code + 16 * c.origin.kindCode + (if c.again then 8 else 0) +
      (if c.posted.any (fun p => p.notify) then 4 else 0) + (if c.phase = .pendingOpen then 0 else 2)) := by
  have hflag : ∀ (b : Bool) (k : Nat), flagNat b * k = if b then k else 0 := by
    intro b k
    cases b <;> simp [flagNat]
  have htimer : flagNat x.runs * 2 = if c.phase = .pendingOpen then 0 else 2 := by
    rw [hruns, hflag]
    by_cases hp : c.phase = .pendingOpen <;> simp [hp]
  rw [recordFlags, htimer, hflag, hflag, Nat.mul_comm c.phase.code, Nat.mul_comm c.origin.kindCode]

theorem recordData_of_free {u : Tag} (hfree : s.occ u = none) (htimer : (s.record u).timer.runs = false) :
    s.recordData u = [byte u.val, 0, 0, 0, 0, 0, (s.record u).epoch, 0, 0, 0] := by
  have hstopped : (s.record u).timer = .stopped := by
    cases hx : (s.record u).timer <;> simp_all [Timer.runs]
  simp only [State.recordData, show (s.record u).occ = none from hfree, hstopped]
  rfl

theorem recordTail_eq (c : Occurrence) : recordTail c =
    match c.origin, c.posted, c.phase with
    | .posted _, some p, _ => bytes16 p.payload ++ [byte p.raiser.val]
    | .group _, _, .claimed _ _ members => byte members.length :: members.map (fun n => byte n.val)
    | _, _, _ => [] := by
  unfold recordTail kindData
  cases c.origin <;> cases c.posted <;> cases c.phase <;> rfl

theorem holderByte_eq (c : Occurrence) : holderByte c = byte ((match c.phase with
    | .claimed holder _ _ => 128 + 16 * holder.val
    | _ => 0) + c.exclusion.toNat) := by
  unfold holderByte
  cases c.phase with
  | claimed holder k members => simp only [Nat.mul_comm holder.val]
  | pendingExcl | pendingOpen => simp only [Nat.zero_add]

theorem recordData_of_live {u : Tag} {c : Occurrence} (hlive : s.occ u = some c)
    (hruns : (s.record u).timer.runs = decide (c.phase ≠ .pendingOpen)) :
    s.recordData u =
      [byte u.val,
        byte (64 * c.phase.code + 16 * c.origin.kindCode + (if c.again then 8 else 0) +
          (if c.posted.any (fun p => p.notify) then 4 else 0) + (if c.phase = .pendingOpen then 0 else 2)),
        byte c.origin.number, c.seq, byte (64 * c.level.val + 8 * (c.reoffer % 8) + c.phase.extensions % 8),
        byte c.merge, (s.record u).epoch, holderByte c] ++
      bytes16 (BitVec.ofNat 16 (s.record u).timer.remaining) ++ recordTail c := by
  simp only [State.recordData, show (s.record u).occ = some c from hlive, recordFlags_eq hruns, Nat.mul_comm c.level.val,
    Nat.mul_comm (c.reoffer % 8)]

/-- Settles O34: byte for byte, by the state of the record. -/
theorem readRecordReports : Obligations.ReadRecordReports := by
  intro s h rt tag hserves htimers
  have hcarry := carryOut_of_always s h (.readRecord tag) rfl
  by_cases hbad : 32 ≤ tag.toNat
  · have hparse : parseTag tag = none := dif_neg (Nat.not_lt.mpr hbad)
    rw [performRequest, readRecordRequest, hparse] at hcarry
    obtain ⟨t, hexec, halone⟩ := exec_row_alone (c := .readRecord h rt tag) rfl hserves hcarry
    exact ⟨t, hexec, fun _ => halone, fun u hu => absurd (hu ▸ hbad) (Nat.not_le.mpr u.isLt)⟩
  · have hlt : tag.toNat < 32 := Nat.not_le.mp hbad
    have hparse : parseTag tag = some ⟨tag.toNat, hlt⟩ := dif_pos hlt
    rw [performRequest, readRecordRequest, hparse] at hcarry
    obtain ⟨t, hexec, halone⟩ := exec_row_alone (c := .readRecord h rt tag) rfl hserves hcarry
    refine ⟨t, hexec, fun h' => absurd h' hbad, fun u hu => ?_⟩
    obtain rfl : (⟨tag.toNat, hlt⟩ : Tag) = u := Fin.ext hu
    refine (congrArg (AnswersAlone s t h rt (.readRecord tag) .ok) ?_).mpr halone
    have htimer := htimers ⟨tag.toNat, hlt⟩
    cases hocc : s.occ ⟨tag.toNat, hlt⟩ with
    | none =>
      rw [hocc] at htimer
      exact (byte_toNat tag ▸ recordData_of_free hocc htimer).symm
    | some c =>
      rw [hocc] at htimer
      refine Eq.trans ?_ (recordData_of_live hocc htimer).symm
      rw [bytes16_remaining, recordTail_eq, holderByte_eq, byte_toNat]
      obtain ⟨origin, _, _, _, _, _, _, _, phase⟩ := c
      cases phase <;> cases origin <;> rfl

/-! ### READ_SOURCE, READ_GROUP and READ_POLICY -/

theorem collectMask_eq (collect members : List LineId) :
    collectMask collect members = ((List.range members.length).map (fun i =>
      if members[i]?.any (fun n => decide (n ∈ collect)) then 2 ^ i else 0)).sum := by
  induction members with
  | nil => rfl
  | cons n rest ih =>
    have hhead : flagNat (collect.contains n) = if n ∈ collect then 1 else 0 := by
      by_cases hn : n ∈ collect <;> simp [flagNat, hn]
    rw [collectMask, ih, hhead, List.length_cons, List.range_succ_eq_map, List.map_cons, List.sum_cons, List.map_map,
      ← List.sum_map_mul_left]
    simp [Function.comp_def, Nat.pow_succ, Nat.mul_comm]

theorem parseSource_of_line {b : Byte} {n : LineId} (hb : b.toNat = n.val) : parseSource b = some (.line n) := by
  rw [← byte_of_toNat hb, parseSource_line]

theorem parseSource_of_posted {b : Byte} {n : PostedId} (hb : b.toNat = 48 + n.val) : parseSource b = some (.posted n) := by
  rw [← byte_of_toNat hb, parseSource_posted]

/-- The line-status byte, item by item (R26, R187, R192). -/
theorem lineStatus_eq (s : State) (n : LineId) : s.lineStatus n =
    byte ((if (s.line n).starved = none then 0 else 128) +
      32 * (match (s.line n).filter with
        | none => 2
        | some f => if f.filtered then 1 else 0) +
      (if (s.line n).filter.any (fun f => decide (f.candidate ≠ f.filtered)) then 16 else 0) +
      (if (s.line n).filter.any (fun f => decide (AtActiveLevel (s.line n).desc.sense f.filtered)) then 8 else 0)) := by
  have hmark : flagNat (s.line n).starved.isSome * 128 = if (s.line n).starved = none then 0 else 128 := by
    cases (s.line n).starved <;> rfl
  have hlevel : filteredCode (s.line n).filter * 32 = 32 * (match (s.line n).filter with
      | none => 2
      | some f => if f.filtered then 1 else 0) := by
    cases (s.line n).filter with
    | none => rfl
    | some f => simp only [filteredCode, flagNat, Nat.mul_comm]
  have hprogress : (s.line n).filter.any LineFilter.inProgress =
      (s.line n).filter.any (fun f => decide (f.candidate ≠ f.filtered)) := by
    refine congrArg (fun p => Option.any p (s.line n).filter) (funext fun f => ?_)
    rw [LineFilter.inProgress]
    cases f.candidate <;> cases f.filtered <;> rfl
  have hflag : ∀ (b : Bool) (k : Nat), flagNat b * k = if b then k else 0 := by
    intro b k
    cases b <;> simp [flagNat]
  rw [State.lineStatus, State.stands_eq, hmark, hlevel, hprogress, hflag, hflag]

/-- Settles O35: the three reads of the committed configuration. -/
theorem configurationReadsReport : Obligations.ConfigurationReadsReport := by
  refine ⟨fun s h rt source hserves => ?_, fun s h rt group hserves => ?_, fun s h rt hserves => ?_⟩
  · have hcarry := carryOut_of_always s h (.readSource source) rfl
    rw [performRequest, readSourceRequest] at hcarry
    cases hparse : parseSource source with
    | none =>
      rw [hparse] at hcarry
      obtain ⟨t, hexec, halone⟩ := exec_row_alone (c := .readSource h rt source) rfl hserves hcarry
      exact ⟨t, hexec, fun _ => halone, fun n hn => absurd (hparse.symm.trans (parseSource_of_line hn)) nofun,
        fun n hn => absurd (hparse.symm.trans (parseSource_of_posted hn)) nofun⟩
    | some target =>
      rw [hparse] at hcarry
      obtain ⟨t, hexec, halone⟩ := exec_row_alone (c := .readSource h rt source) rfl hserves hcarry
      refine ⟨t, hexec, fun hbad => ?_, fun n hn => ?_, fun n hn => ?_⟩
      · have hnone : parseSource source = none := by
          rw [parseSource, dif_neg (by omega), dif_neg (by omega)]
        exact absurd (hparse.symm.trans hnone) nofun
      · obtain rfl := Option.some.inj (hparse.symm.trans (parseSource_of_line hn))
        refine (congrArg (AnswersAlone s t h rt (.readSource source) .ok) ?_).mpr halone
        change _ = [byte n.val] ++ (s.line n).desc.bytes ++
          [(s.line n).seq, byte ((s.line n).starved.getD 0), s.lineStatus n]
        rw [lineStatus_eq, byte_of_toNat hn]
        rfl
      · obtain rfl := Option.some.inj (hparse.symm.trans (parseSource_of_posted hn))
        refine (congrArg (AnswersAlone s t h rt (.readSource source) .ok) ?_).mpr halone
        change _ = [byte (48 + n.val)] ++ (s.posted n).desc.bytes ++ [(s.posted n).seq, 0, byte (3 * 32)]
        rw [byte_of_toNat hn]
        rfl
  · have hcarry := carryOut_of_always s h (.readGroup group) rfl
    rw [performRequest, readGroupRequest] at hcarry
    by_cases hbad : 8 ≤ group.toNat
    · have hparse : parseGroup group = none := dif_neg (Nat.not_lt.mpr hbad)
      rw [hparse] at hcarry
      obtain ⟨t, hexec, halone⟩ := exec_row_alone (c := .readGroup h rt group) rfl hserves hcarry
      exact ⟨t, hexec, fun _ => halone, fun g hg => absurd (hg ▸ hbad) (Nat.not_le.mpr g.isLt)⟩
    · have hlt : group.toNat < 8 := Nat.not_le.mp hbad
      have hparse : parseGroup group = some ⟨group.toNat, hlt⟩ := dif_pos hlt
      rw [hparse] at hcarry
      obtain ⟨t, hexec, halone⟩ := exec_row_alone (c := .readGroup h rt group) rfl hserves hcarry
      refine ⟨t, hexec, fun h' => absurd h' hbad, fun g hg => ?_⟩
      obtain rfl : (⟨group.toNat, hlt⟩ : GroupId) = g := Fin.ext hg
      refine (congrArg (AnswersAlone s t h rt (.readGroup group) .ok) ?_).mpr halone
      have hmark : flagNat (s.group ⟨group.toNat, hlt⟩).starved * 128 =
          if (s.group ⟨group.toNat, hlt⟩).starved then 128 else 0 := by
        cases (s.group ⟨group.toNat, hlt⟩).starved <;> rfl
      change _ = s.groupData ⟨group.toNat, hlt⟩
      rw [State.groupData]
      dsimp only
      rw [hmark, collectMask_eq, byte_toNat]
      rfl
  · exact exec_row_alone (c := .readPolicy h rt) (a := okWith s.policy.bytes) rfl hserves
      (carryOut_of_always s h .readPolicy rfl)

/-! ### TAKE_NOTICE and SET_FLOOR: the Host Context alone changes -/

/-- What a request that changes its own Host Context alone leaves. -/
theorem setHost_keeps (s : State) (h : HostId) (x : HostContext) :
    (s.setHost h x).host h = x ∧ OtherHostsKept h s (s.setHost h x) ∧ SameTables s (s.setHost h x) ∧
      SamePool s (s.setHost h x) ∧ SameBoard s (s.setHost h x) ∧ SameSession s (s.setHost h x) :=
  ⟨State.host_setHost_same _ _ _, fun _ hg => State.host_setHost_ne _ _ _ _ hg, ⟨⟨rfl, rfl⟩, rfl⟩, ⟨rfl, rfl⟩,
    ⟨rfl, rfl, rfl, rfl, rfl, rfl, rfl⟩, rfl, rfl⟩

theorem flagNat_byte (b : Bool) : byte (flagNat b) = if b then 1 else 0 := by cases b <;> rfl

/-- Settles O45: by the queue, empty or with an oldest notice. -/
theorem takeNoticeReturnsTheOldest : Obligations.TakeNoticeReturnsTheOldest := by
  intro s h rt hserves
  have hcarry := carryOut_of_always s h .takeNotice rfl
  rw [performRequest, takeNoticeRequest] at hcarry
  cases hqueue : (s.host h).queue with
  | nil =>
    rw [hqueue, settleAnswered_of_refused _ (by exact nofun)] at hcarry
    have hexec := exec_row_carried (c := .takeNotice h rt) rfl hserves hcarry
    obtain ⟨hhost, hothers, htables, hpool, hboard, hsession⟩ := setHost_keeps s h { s.host h with
      queue := [], overflow := false }
    have hreplies := replies_setWork (s := s) (t := s.setHost h { s.host h with queue := [], overflow := false }) rfl h rt
      .takeNotice
      { code := .empty, data := [0, byte (flagNat (s.host h).overflow)] }
    refine ⟨_, hexec, hhost, hothers, htables, hpool, hboard, hsession, fun _ => ⟨rfl,
      (congrArg (fun b => Replies s _ h rt .takeNotice .empty [0, b]) (flagNat_byte (s.host h).overflow)).mp hreplies⟩,
      fun hne => absurd rfl hne⟩
  | cons n rest =>
    rw [hqueue, settleAnswered_of_ok _ rfl] at hcarry
    have hexec := exec_row_carried (c := .takeNotice h rt) rfl hserves hcarry
    obtain ⟨hhost, hothers, htables, hpool, hboard, hsession⟩ := setHost_keeps s h { s.host h with
      queue := rest, overflow := false }
    have hreplies := replies_setWork (s := s) (t := settle (s.setHost h { s.host h with queue := rest, overflow := false })) rfl
      h rt .takeNotice (okWith (n.bytes ++ [byte rest.length, byte (flagNat (s.host h).overflow)]))
    refine ⟨_, hexec, hhost, hothers, htables, hpool, hboard, hsession, nofun,
      fun _ => ⟨attnSettled_setWork_settle _ _ _, ?_⟩⟩
    refine (congrArg (Replies s _ h rt .takeNotice .ok) ?_).mp hreplies
    rw [flagNat_byte]
    cases n <;> rfl

theorem parseFloor_closed : parseFloor 0xFF = some none := rfl

theorem parseFloor_open {floor : Byte} (hf : floor.toNat < 4) : parseFloor floor = some (some ⟨floor.toNat, hf⟩) := by
  have hne : floor ≠ 0xFF := by
    rintro rfl
    exact absurd hf (by decide)
  rw [parseFloor, if_neg hne, dif_pos hf]

theorem parseFloor_bad {floor : Byte} (hbad : ¬ (floor.toNat < 4 ∨ floor = 0xFF)) : parseFloor floor = none := by
  rw [parseFloor, if_neg fun h => hbad (.inr h), dif_neg fun h => hbad (.inl h)]

theorem floorByte_parseFloor {floor : Byte} {f : Option Level} (hf : parseFloor floor = some f) : floorByte f = floor := by
  unfold parseFloor at hf
  split at hf
  · rename_i h
    obtain rfl := Option.some.inj hf
    exact h.symm
  · split at hf
    · obtain rfl := Option.some.inj hf
      exact byte_toNat floor
    · cases hf

/-- Settles O32: a coded floor is set, any other byte is refused. -/
theorem setFloorActsOnOffersAlone : Obligations.SetFloorActsOnOffersAlone := by
  intro s h rt floor hserves hpresent
  have hcarry := carryOut_of_present s h (.setFloor floor) hpresent
  rw [performRequest, setFloorRequest] at hcarry
  by_cases hcoded : floor.toNat < 4 ∨ floor = 0xFF
  · have hparse : ∃ f, parseFloor floor = some f ∧ (floor = 0xFF → f = none) ∧
        (floor.toNat < 4 → f.any (fun l => decide (l.val = floor.toNat)) = true) := by
      rcases hcoded with hlt | rfl
      · refine ⟨_, parseFloor_open hlt, ?_, fun _ => decide_eq_true rfl⟩
        rintro rfl
        exact absurd hlt (by decide)
      · exact ⟨none, parseFloor_closed, fun _ => rfl, fun hlt => absurd hlt (by decide)⟩
    obtain ⟨f, hf, hclosed, hopen⟩ := hparse
    rw [hf, settleAnswered_of_ok _ rfl] at hcarry
    have hexec := exec_row_carried (c := .setFloor h rt floor) rfl hserves hcarry
    obtain ⟨hhost, hothers, htables, hpool, hboard, hsession⟩ := setHost_keeps s h { s.host h with floor := f }
    have hreplies := replies_setWork (s := s) (t := settle (s.setHost h { s.host h with floor := f })) rfl h rt
      (.setFloor floor) (okWith [floorByte (s.host h).floor, floorByte f])
    have hdata : [floorByte (s.host h).floor, floorByte f] = [match (s.host h).floor with
        | some l => byte l.val
        | none => 0xFF, floor] := by
      rw [floorByte_parseFloor hf]
      cases (s.host h).floor <;> rfl
    have hfloor := congrArg HostContext.floor hhost
    exact ⟨_, hexec, fun _ => ⟨hhost.trans (congrArg (fun f => { s.host h with floor := f }) hfloor.symm),
      fun h' => hfloor.trans (hclosed h'), fun h' => (congrArg (Option.any _) hfloor).trans (hopen h'), hothers, htables,
      hpool, hboard, hsession, (congrArg (Replies s _ h rt (.setFloor floor) .ok) hdata).mp hreplies,
      attnSettled_setWork_settle _ _ _⟩, fun hbad => absurd hcoded hbad⟩
  · rw [parseFloor_bad hcoded, settleAnswered_of_refused s (a := bare .badArg) nofun] at hcarry
    obtain ⟨t, hexec, halone⟩ := exec_row_alone (c := .setFloor h rt floor) rfl hserves hcarry
    exact ⟨t, hexec, fun h' => absurd h' hcoded, fun _ => halone⟩

/-! ### EXTEND -/

/-- The record of a valid token is CLAIMED by its host. -/
theorem phase_of_validToken {tag epoch : Byte} {u : Tag} {c : Occurrence} (hvalid : ValidToken s h tag epoch u)
    (hc : s.occ u = some c) : ∃ k ms, c.phase = .claimed h k ms :=
  (validToken_sound s h tag epoch u c (validToken_eq_some_iff.mpr ⟨hvalid, hc⟩)).2.2.1

theorem setRecord_keeps (s : State) (u : Tag) (r : Record) :
    OtherRecordsKept u s (s.setRecord u r) ∧ SameTables s (s.setRecord u r) ∧ SameBoard s (s.setRecord u r) ∧
      SameSession s (s.setRecord u r) :=
  ⟨fun _ hv => State.record_setRecord_ne _ _ _ _ hv, ⟨⟨rfl, rfl⟩, rfl⟩, ⟨rfl, rfl, rfl, rfl, rfl, rfl, rfl⟩, rfl, rfl⟩

/-- Settles O38: below the extension limit, and at or above it. -/
theorem extendRestartsTheLease : Obligations.ExtendRestartsTheLease := by
  intro s h rt tag epoch u c hserves hjoined hvalid hc
  obtain ⟨k, ms, hphase⟩ := phase_of_validToken hvalid hc
  have hcarry := carryOut_of_admitted (s := s) (h := h) (req := .extend tag epoch) (refusal_joined hjoined)
  rw [performRequest, extendRequest, validToken_eq_some_iff.mpr ⟨hvalid, hc⟩] at hcarry
  dsimp only at hcarry
  by_cases hlimit : c.phase.extensions < s.policy.extensionLimit.val
  · rw [if_pos hlimit] at hcarry
    have hexec := exec_row_carried (c := .extend h rt tag epoch) rfl hserves hcarry
    have hextended : c.phase.extended = .claimed h (c.phase.extensions + 1) c.phase.members := by
      rw [hphase]
      rfl
    obtain ⟨hothers, htables, hboard, hsession⟩ := setRecord_keeps s u { s.record u with
      timer := Timer.start (s.leaseOf c.origin).toNat, occ := some { c with phase := c.phase.extended } }
    refine ⟨_, hexec, fun _ => ⟨?_, hothers, rfl, rfl, htables, hboard, hsession, rfl, replies_setWork rfl h rt _ _⟩,
      fun h' => absurd hlimit (Nat.not_lt.mpr h')⟩
    rw [← hextended]
    exact State.record_setRecord_same _ _ _
  · rw [if_neg hlimit] at hcarry
    obtain ⟨t, hexec, halone⟩ := exec_row_alone (c := .extend h rt tag epoch) rfl hserves hcarry
    refine ⟨t, hexec, fun h' => absurd h' hlimit, fun _ => (congrArg (AnswersAlone s t h rt (.extend tag epoch) .limit)
      (congrArg ([byte c.phase.extensions, byte s.policy.extensionLimit.val] ++ ·) ?_)).mp halone⟩
    cases (s.record u).timer <;> rfl

/-! ### RAISE -/

theorem parsePosted_of_number {source : Byte} {n : PostedId} (hn : source.toNat = 48 + n.val) :
    parsePosted source = some n := by
  have hlt := n.isLt
  rw [parsePosted, dif_pos (by omega)]
  exact congrArg some (Fin.ext (by simp only [hn]; omega))

theorem parseNotify_of_coded {notify : Byte} (hcoded : notify = 0 ∨ notify = 1) :
    parseNotify notify = some (decide (notify = 1)) := by
  rcases hcoded with rfl | rfl <;> rfl

theorem raiseRequest_bad {source notify : Byte} {payload : BitVec 16}
    (hbad : ¬ (48 ≤ source.toNat ∧ source.toNat < 64) ∨ ¬ (notify = 0 ∨ notify = 1)) :
    raiseRequest h source payload notify s = (s, bare .badArg) := by
  rcases hbad with hsource | hnotify
  · simp only [raiseRequest, show parsePosted source = none from dif_neg hsource]
  · have hnone : parseNotify notify = none := by
      rw [parseNotify, if_neg fun h => hnotify (.inl h), if_neg fun h => hnotify (.inr h)]
    cases hposted : parsePosted source <;> simp only [raiseRequest, hnone, hposted]

/-- The first live record of an origin, in the order of the tags. -/
theorem liveTags_eq_cons {o : Origin} {u : Tag} {c : Occurrence} (hc : s.occ u = some c) (horigin : c.origin = o)
    (hfirst : ∀ v, v < u → (s.occ v).all (fun d => decide (d.origin ≠ o)) = true) : ∃ rest, s.liveTags o = u :: rest := by
  have hhead : (s.liveTags o).head? = some u := by
    rw [State.liveTags, List.head?_filter, tags_find?_eq_some_iff]
    refine ⟨by simp [State.isLiveOf, hc, horigin], fun v hv => ?_⟩
    have hnot := hfirst v hv
    cases hd : s.occ v with
    | none => simp [State.isLiveOf, hd]
    | some d => simpa [State.isLiveOf, hd] using hnot
  cases hlive : s.liveTags o with
  | nil => rw [hlive] at hhead; cases hhead
  | cons v rest =>
    rw [hlive] at hhead
    exact ⟨rest, congrArg (· :: rest) (Option.some.inj hhead)⟩

theorem liveTags_eq_nil {o : Origin} (hnone : NoLiveRecord s o) : s.liveTags o = [] :=
  List.isEmpty_iff.mp ((State.liveTags_isEmpty_iff s o).mpr hnone)

theorem enlarge_empty (route : HostSet) (h : HostId) : enlarge route 0 (hostBit h) = excludedAfter route (hostBit h) := by
  revert route h
  decide

/-- The exclusion set of a new POSTED record (R33, R112). -/
theorem raiseExclusion_eq (h : HostId) (d : SourceDescriptor) :
    raiseExclusion h d = if d.selfExclude then excludedAfter d.terms.route (hostBit h) else 0 := by
  rw [raiseExclusion, enlarge_empty]

/-- A RAISE whose arguments are coded, by the source it names (R111). -/
theorem raiseRequest_coded {source notify : Byte} {payload : BitVec 16} {n : PostedId} (hn : source.toNat = 48 + n.val)
    (hcoded : notify = 0 ∨ notify = 1) :
    ((s.posted n).desc.enabled = false → raiseRequest h source payload notify s = (s, bare .disabled)) ∧
    ((s.posted n).desc.enabled = true →
      (∀ u rest, s.liveTags (.posted n) = u :: rest →
        raiseRequest h source payload notify s = (s, { code := .occupied, data := [byte u.val, s.seqByte u] })) ∧
      (s.liveTags (.posted n) = [] → s.freeTag = none →
        raiseRequest h source payload notify s = (s, bare .noRecord)) ∧
      ∀ u m, s.liveTags (.posted n) = [] → s.freeTag = some u →
        m = createRecord u (.posted n) 0 (some { payload := payload, raiser := h, notify := decide (notify = 1) })
          (raiseExclusion h (s.posted n).desc) s →
        raiseRequest h source payload notify s = (m, okWith [byte u.val, m.seqByte u])) := by
  have hposted := parsePosted_of_number hn
  have hnotify := parseNotify_of_coded hcoded
  refine ⟨fun hdisabled => ?_, fun henabled => ⟨fun u rest hlive => ?_, fun hlive hfree => ?_, fun u m hlive hfree hm => ?_⟩⟩
  · simp [raiseRequest, hposted, hnotify, hdisabled]
  · simp [raiseRequest, hposted, hnotify, henabled, hlive]
  · simp [raiseRequest, hposted, hnotify, henabled, hlive, hfree]
  · simp [raiseRequest, hposted, hnotify, henabled, hlive, hfree, hm]

theorem answersAlone_answerRequest (hcarry : carryOut h req s = (s, a)) :
    AnswersAlone s (answerRequest h rt req s) h rt req a.code a.data := by
  simp only [answerRequest, hcarry]
  exact answersAlone_setWork s h rt req a

theorem seqByte_createRecord (s : State) (u : Tag) (o : Origin) (m : Nat) (p : Option PostedFields) (e : HostSet) :
    (createRecord u o m p e s).seqByte u = s.seqOf o + 1 := by
  obtain ⟨hentered, -⟩ := entersPending_createRecord s u o m p e
  rw [State.seqByte, State.occ]
  rcases hentered with ⟨-, hrecord⟩ | ⟨-, hrecord⟩ <;> rw [hrecord] <;> rfl

/-- What the creation of a posted source's record leaves, the answer coded and ATTN settled. -/
theorem raised {n : PostedId} {u : Tag} {p : PostedFields} {w : PortWork}
    (hm : m = createRecord u (.posted n) 0 (some p) (raiseExclusion h (s.posted n).desc) s) :
    EntersPending s (setWork h w (settle m)) u (s.posted n).desc.terms
        (createdFields (.posted n) ((s.posted n).seq + 1) (s.posted n).desc.terms.level 0 (some p)
          (if (s.posted n).desc.selfExclude then excludedAfter (s.posted n).desc.terms.route (hostBit h) else 0)) ∧
      (setWork h w (settle m)).posted n = { s.posted n with seq := (s.posted n).seq + 1 } ∧
      (∀ k, k ≠ n → (setWork h w (settle m)).posted k = s.posted k) ∧
      m.lineSources = s.lineSources ∧ m.groups = s.groups ∧ m.hosts = s.hosts ∧ Elsewhere s m := by
  have hentered : EntersPending s m u _ _ :=
    hm ▸ entersPending_createRecord s u (.posted n) 0 (some p) (raiseExclusion h (s.posted n).desc)
  have hposted : ∀ k, m.posted k = _ :=
    hm ▸ createRecord_posted s u (.posted n) 0 (some p) (raiseExclusion h (s.posted n).desc)
  have hbeside : m.besidePool = s.besidePool := hm ▸ createRecord_besidePool s u (.posted n) 0 (some p) _
  have hlines : m.lineSources = s.lineSources := hm ▸ createRecord_lineSources s u (o := .posted n) 0 (some p) _ nofun
  have hgroups : m.groups = s.groups := hm ▸ createRecord_groups s u (o := .posted n) 0 (some p) _ nofun
  obtain ⟨hhosts, helsewhere⟩ := elsewhere_of_besidePool hbeside
  rw [← raiseExclusion_eq]
  refine ⟨hentered, (hposted n).trans (if_pos rfl), fun k hk => (hposted k).trans (if_neg ?_), hlines, hgroups, hhosts,
    helsewhere⟩
  rintro ⟨⟩
  exact hk rfl

/-- Settles O44: the five outcomes in the order in which R111 judges them. -/
theorem raiseIsJudgedInOrder : Obligations.RaiseIsJudgedInOrder := by
  intro s h rt source payload notify n u c hserves hpresent
  have hcarry := carryOut_of_present s h (.raise source payload notify) hpresent
  rw [performRequest] at hcarry
  refine ⟨answerRequest h rt (.raise source payload notify) s, exec_row_of_serves (c := .raise h rt source payload notify) rfl hserves,
    fun hbad => ?_, fun hn hcoded => ?_⟩
  · rw [raiseRequest_bad hbad] at hcarry
    exact answersAlone_answerRequest (a := bare .badArg) (hcarry.trans (settleAnswered_of_refused s nofun))
  · obtain ⟨hdisabled, henabled⟩ := raiseRequest_coded (s := s) (h := h) (payload := payload) hn hcoded
    refine ⟨fun hoff => ?_, fun hon hc horigin hfirst => ?_, fun hon hnolive hfull => ?_, fun hon hnolive hlowest => ?_⟩
    · rw [hdisabled hoff] at hcarry
      exact answersAlone_answerRequest (a := bare .disabled) (hcarry.trans (settleAnswered_of_refused s nofun))
    · obtain ⟨rest, hlive⟩ := liveTags_eq_cons hc horigin hfirst
      have hseq : s.seqByte u = c.seq := by rw [State.seqByte, hc]
      rw [(henabled hon).1 u rest hlive, hseq] at hcarry
      exact answersAlone_answerRequest (a := { code := .occupied, data := [byte u.val, c.seq] })
        (hcarry.trans (settleAnswered_of_refused s nofun))
    · rw [(henabled hon).2.1 (liveTags_eq_nil hnolive) ((State.freeTag_eq_none_iff s).mpr hfull)] at hcarry
      exact answersAlone_answerRequest (a := bare .noRecord) (hcarry.trans (settleAnswered_of_refused s nofun))
    · obtain ⟨m, hm⟩ : ∃ m, m = createRecord u (.posted n) 0
          (some { payload := payload, raiser := h, notify := decide (notify = 1) })
          (raiseExclusion h (s.posted n).desc) s := ⟨_, rfl⟩
      have hseq : m.seqByte u = (s.posted n).seq + 1 := hm ▸ seqByte_createRecord s u (.posted n) 0 _ _
      rw [(henabled hon).2.2 u m (liveTags_eq_nil hnolive) ((State.freeTag_eq_some_iff s u).mpr hlowest) hm, hseq,
        settleAnswered_of_ok m (a := okWith [byte u.val, (s.posted n).seq + 1]) rfl] at hcarry
      have hanswer : answerRequest h rt (.raise source payload notify) s = setWork h
          (.answered (replyFrame rt 0x24 (okWith [byte u.val, (s.posted n).seq + 1]))) (settle m) := by
        rw [answerRequest, hcarry]
        rfl
      rw [hanswer]
      obtain ⟨hentered, hposted, hothers, hlines, hgroups, hhosts, hboard, hsession, hports⟩ := raised hm
      exact ⟨hentered, hposted, hothers, hlines, hgroups, hhosts, hboard, hsession,
        replies_setWork (t := settle m) hports h rt (.raise source payload notify) (okWith [byte u.val, (s.posted n).seq + 1]),
        attnSettled_setWork_settle _ _ _⟩

end Sys2Proof.Machine
end

section
/-! Requests of the configuration session that apply nothing, and its end (O47, O48, O53). -/

namespace Sys2Proof.Machine

variable {s m : State} {h : HostId} {rt : RequestTag} {req : Request} {a : Answer} {x : Session}

/-! ### The session check (R153) -/

/-- The session of the holder, its timer restarted. -/
def Session.restarted (s : State) (x : Session) : Session := { x with timer := s.sessionTimer }

theorem withSession_of_holder (hopen : s.session = some x) (hholder : x.holder = h)
    (act : Session → State → State × Answer) :
    withSession h s act = act (x.restarted s) { s with session := some (x.restarted s) } := by
  simp [withSession, hopen, hholder, Session.restarted]

theorem withSession_of_other (hnot : s.session.any (fun x => decide (x.holder = h)) = false)
    (act : Session → State → State × Answer) : withSession h s act = (s, bare .noSession) := by
  unfold withSession
  cases hs : s.session with
  | none => rfl
  | some x =>
    rw [hs, Option.any_some, decide_eq_false_iff_not] at hnot
    exact if_neg hnot

/-- A request that changes the session alone. -/
theorem exec_row_session {c : Instr} {y : Option Session} (hrow : rowRequest c = some (h, rt, req))
    (hserves : Serves s h rt req) (hcarry : carryOut h req s = ({ s with session := y }, a)) :
    ∃ t, exec c s = .next t ∧ t.session = y ∧ t.policy = s.policy ∧ SameTables s t ∧ SamePool s t ∧ t.hosts = s.hosts ∧
      t.attn = s.attn ∧ SameBoard s t ∧ Replies s t h rt req a.code a.data :=
  ⟨_, exec_row_carried hrow hserves hcarry, rfl, rfl, ⟨⟨rfl, rfl⟩, rfl⟩, ⟨rfl, rfl⟩, rfl, rfl,
    ⟨rfl, rfl, rfl, rfl, rfl, rfl, rfl⟩, replies_setWork (t := { s with session := y }) rfl h rt req a⟩

/-! ### Bytes outside the ranges of their record (R159, R160) -/

theorem lt_of_below {bound n : Nat} {i : Fin bound} (hi : below bound n = some i) : n < bound := by
  unfold below at hi
  split at hi
  · assumption
  · cases hi

theorem parsePreferred_coded {n : Nat} {p : Option HostId} (hp : parsePreferred n = some p) : n = 15 ∨ n < 4 := by
  unfold parsePreferred at hp
  split at hp
  · exact .inl ‹_›
  · obtain ⟨i, hi, -⟩ := Option.map_eq_some_iff.mp hp
    exact .inr (lt_of_below hi)

theorem parseGroupField_coded {n : Nat} {g : Option GroupId} (hg : parseGroupField n = some g) : n = 15 ∨ n < 8 := by
  unfold parseGroupField at hg
  split at hg
  · exact .inl ‹_›
  · obtain ⟨i, hi, -⟩ := Option.map_eq_some_iff.mp hg
    exact .inr (lt_of_below hi)

theorem parseSense_coded {n : Nat} {x : Sense} (hx : parseSense n = some x) :
    n ≤ 4 ∧ (3 ≤ n → x.isLevel = true) := by
  unfold parseSense at hx
  split at hx
  · exact ⟨by decide, nofun⟩
  · exact ⟨by decide, fun h => absurd h (by decide)⟩
  · exact ⟨by decide, fun h => absurd h (by decide)⟩
  · obtain rfl := Option.some.inj hx
    exact ⟨by decide, fun _ => rfl⟩
  · obtain rfl := Option.some.inj hx
    exact ⟨by decide, fun _ => rfl⟩
  · cases hx

theorem parseRoute_coded {n : Nat} {r : HostSet} (hr : parseRoute n = some r) : n ≠ 0 := by
  unfold parseRoute at hr
  split at hr
  · cases hr
  · assumption

theorem parseSource_coded {b : Byte} {target : SourceTarget} (ht : parseSource b = some target) :
    b.toNat < 64 ∧ (48 ≤ b.toNat → ∃ n, target = .posted n) := by
  unfold parseSource at ht
  split at ht
  · exact ⟨by omega, fun h => by omega⟩
  · split at ht
    · obtain rfl := Option.some.inj ht
      exact ⟨by omega, fun _ => ⟨_, rfl⟩⟩
    · cases ht

theorem field_high (b : Byte) : field b 4 4 = b.toNat / 16 := by
  have hb := b.isLt
  unfold field
  omega

theorem field_low (b : Byte) : field b 0 4 = b.toNat % 16 := by
  unfold field
  omega

theorem field_sense (b : Byte) : field b 2 3 = b.toNat / 4 % 8 := rfl

theorem field_policy (b : Byte) (hb : b.getLsbD 6 = true) : field b 6 1 = 1 := by
  revert b
  decide

theorem parseSourceDescriptor_coded {v : Table Byte 5} {d : SourceDescriptor} (hd : parseSourceDescriptor v = some d) :
    (v.look 0).toNat / 4 % 8 ≤ 4 ∧ (v.look 1).toNat / 16 ≠ 0 ∧
      ((v.look 1).toNat % 16 = 15 ∨ (v.look 1).toNat % 16 < 4) ∧ (v.look 2).toNat % 16 < 8 ∧
      ((v.look 3).toNat / 16 = 15 ∨ (v.look 3).toNat / 16 < 8) ∧ (v.look 3).toNat % 16 < 4 ∧
      ((v.look 0).getLsbD 6 = true → d.clearPolicy = .onClaim ∧ (3 ≤ (v.look 0).toNat / 4 % 8 → d.sense.isLevel = true)) := by
  simp only [parseSourceDescriptor, Option.bind_eq_bind, Option.bind_eq_some_iff, field_high, field_low, field_sense] at hd
  obtain ⟨sense, hsense, _, -, route, hroute, preferred, hpreferred, _, -, reoffer, hreoffer, group, hgroup, leaseClass,
    hclass, hd⟩ := hd
  obtain ⟨hcoded, hlevel⟩ := parseSense_coded hsense
  obtain rfl := Option.some.inj hd
  exact ⟨hcoded, parseRoute_coded hroute, parsePreferred_coded hpreferred, lt_of_below hreoffer, parseGroupField_coded hgroup,
    lt_of_below hclass, fun hpolicy => ⟨if_pos (field_policy _ hpolicy), hlevel⟩⟩

theorem parseStageSource_bad {n : Byte} {v : Table Byte 5}
    (hbad : 64 ≤ n.toNat ∨ 4 < (v.look 0).toNat / 4 % 8 ∨ (v.look 1).toNat / 16 = 0 ∨
      (4 ≤ (v.look 1).toNat % 16 ∧ (v.look 1).toNat % 16 < 15) ∨ 8 ≤ (v.look 2).toNat % 16 ∨
      (8 ≤ (v.look 3).toNat / 16 ∧ (v.look 3).toNat / 16 < 15) ∨ 4 ≤ (v.look 3).toNat % 16 ∨
      ((v.look 0).getLsbD 6 = true ∧ (3 ≤ (v.look 0).toNat / 4 % 8 ∨ 48 ≤ n.toNat))) :
    parseStageSource n v = none := by
  cases hparse : parseStageSource n v with
  | none => rfl
  | some e =>
    simp only [parseStageSource, Option.bind_eq_bind, Option.bind_eq_some_iff] at hparse
    obtain ⟨target, htarget, d, hd, hfits⟩ := hparse
    obtain ⟨hnumber, hposted⟩ := parseSource_coded htarget
    obtain ⟨hsense, hroute, hpreferred, hreoffer, hgroup, hclass, hpolicy⟩ := parseSourceDescriptor_coded hd
    have hmisfit : ¬ ((v.look 0).getLsbD 6 = true ∧ (3 ≤ (v.look 0).toNat / 4 % 8 ∨ 48 ≤ n.toNat)) := by
      rintro ⟨hclaim, hlevel | hnumber⟩
      · obtain ⟨hp, hl⟩ := hpolicy hclaim
        cases target <;> simp [SourceDescriptor.policyFits, hp, hl hlevel] at hfits
      · obtain ⟨k, rfl⟩ := hposted hnumber
        simp [SourceDescriptor.policyFits, (hpolicy hclaim).1] at hfits
    rcases hbad with hb | hb | hb | hb | hb | hb | hb | hb
    case inr.inr.inr.inr.inr.inr.inr => exact absurd hb hmisfit
    all_goals omega

theorem parseStageGroup_bad {g : Byte} {v : Table Byte 4}
    (hbad : 8 ≤ g.toNat ∨ 4 ≤ (v.look 0).toNat / 16 ∨ 8 ≤ (v.look 0).toNat % 16 ∨ (v.look 1).toNat / 16 = 0 ∨
      (4 ≤ (v.look 1).toNat % 16 ∧ (v.look 1).toNat % 16 < 15)) : parseStageGroup g v = none := by
  cases hparse : parseStageGroup g v with
  | none => rfl
  | some e =>
    simp only [parseStageGroup, Option.bind_eq_bind, Option.bind_eq_some_iff, field_high, field_low] at hparse
    obtain ⟨k, hk, leaseClass, hclass, reoffer, hreoffer, route, hroute, preferred, hpreferred, -⟩ := hparse
    have hnumber : g.toNat < 8 := lt_of_below hk
    have hclass := lt_of_below hclass
    have hreoffer := lt_of_below hreoffer
    have hroute := parseRoute_coded hroute
    have hpreferred := parsePreferred_coded hpreferred
    omega

theorem word16_toNat (hi lo : Byte) : (word16 hi lo).toNat = 256 * hi.toNat + lo.toNat := by
  have hlo := lo.isLt
  rw [word16, BitVec.toNat_append, Nat.shiftLeft_eq, Nat.mul_comm, Nat.two_pow_add_eq_or_of_lt hlo]

theorem parseStagePolicy_bad {v : Table Byte 12}
    (hbad : (v.look 0 = 0 ∧ v.look 1 = 0) ∨ (v.look 2 = 0 ∧ v.look 3 = 0) ∨ (v.look 4 = 0 ∧ v.look 5 = 0) ∨
      (v.look 6 = 0 ∧ v.look 7 = 0) ∨ 8 ≤ (v.look 8).toNat ∨ 8 ≤ (v.look 9).toNat ∨
      256 * (v.look 10).toNat + (v.look 11).toNat < 1000) : parseStagePolicy v = none := by
  cases hparse : parseStagePolicy v with
  | none => rfl
  | some e =>
    simp only [parseStagePolicy, Option.bind_eq_bind, Option.bind_eq_some_iff] at hparse
    obtain ⟨extension, hextension, strike, hstrike, hparse⟩ := hparse
    have hextension := lt_of_below hextension
    have hstrike := lt_of_below hstrike
    have hzero : word16 0 0 = 0 := by decide
    split at hparse
    · cases hparse
    · rename_i hok
      push Not at hok
      obtain ⟨h0, h1, h2, h3, htimeout⟩ := hok
      rw [word16_toNat] at htimeout
      rcases hbad with ⟨ha, hb⟩ | ⟨ha, hb⟩ | ⟨ha, hb⟩ | ⟨ha, hb⟩ | hb | hb | hb
      · exact absurd (by rw [ha, hb, hzero]) h0
      · exact absurd (by rw [ha, hb, hzero]) h1
      · exact absurd (by rw [ha, hb, hzero]) h2
      · exact absurd (by rw [ha, hb, hzero]) h3
      all_goals omega

/-! ### Refused session requests -/

theorem stageRequest_of_bad (hopen : s.session = some x) (hholder : x.holder = h) :
    stageRequest h none s = ({ s with session := some (x.restarted s) }, bare .badArg) := by
  rw [stageRequest, withSession_of_holder hopen hholder]

/-- Settles O47: the session check comes first, then the ranges of the record. -/
theorem refusedSessionRequests : Obligations.RefusedSessionRequests := by
  refine ⟨fun s c h rt req hrow hserves hpresent hreq hnot => ?_,
    fun s c h rt req x hrow hserves hpresent hopen hholder hbad => ?_⟩
  · refine exec_row_alone (a := bare .noSession) hrow hserves ((carryOut_of_present s h req hpresent).trans ?_)
    rcases hreq with ⟨n, v, rfl⟩ | ⟨g, v, rfl⟩ | ⟨v, rfl⟩ | rfl | rfl
    · rw [performRequest, stageSourceRequest, stageRequest, withSession_of_other hnot]
    · rw [performRequest, stageGroupRequest, stageRequest, withSession_of_other hnot]
    · rw [performRequest, stagePolicyRequest, stageRequest, withSession_of_other hnot]
    · rw [performRequest, commitRequest, withSession_of_other hnot]
      exact settleAnswered_of_refused s nofun
    · rw [performRequest, discardRequest, withSession_of_other hnot]
  · have hrefused : performRequest h req s = stageRequest h none s := by
      rcases hbad with ⟨n, v, rfl, hbad⟩ | ⟨g, v, rfl, hbad⟩ | ⟨v, rfl, hbad⟩
      · rw [performRequest, stageSourceRequest, parseStageSource_bad hbad]
      · rw [performRequest, stageGroupRequest, parseStageGroup_bad hbad]
      · rw [performRequest, stagePolicyRequest, parseStagePolicy_bad hbad]
    obtain ⟨t, hexec, hsession, hpolicy, htables, hpool, hhosts, hattn, hboard, hreplies⟩ := exec_row_session hrow hserves
      ((carryOut_of_present s h req hpresent).trans (hrefused.trans (stageRequest_of_bad hopen hholder)))
    exact ⟨t, hexec, hsession, hpolicy, htables, hpool, hhosts, hattn, hboard, hreplies⟩

/-! ### Staging -/

theorem stageInto_replaces {e old : StagedEntry} {before after : List StagedEntry} (hold : old.sameTarget e = true)
    (hbefore : ∀ f ∈ before, f.sameTarget e = false) :
    stageInto e (before ++ old :: after) = some (before.length, before ++ e :: after) := by
  have hfind : (before ++ old :: after).findIdx? (fun f => f.sameTarget e) = some before.length := by
    rw [List.findIdx?_eq_some_iff_getElem]
    refine ⟨by simp, by simpa using hold, fun j hj => ?_⟩
    rw [List.getElem_append_left hj]
    simpa using hbefore _ (List.getElem_mem hj)
  simp [stageInto, hfind]

theorem stageInto_of_new {e : StagedEntry} {l : List StagedEntry} (hnew : ∀ f ∈ l, f.sameTarget e = false) :
    stageInto e l = if l.length < 8 then some (l.length, l ++ [e]) else none := by
  have hfind : l.findIdx? (fun f => f.sameTarget e) = none := by simpa using hnew
  simp only [stageInto, hfind]
  rfl

theorem stageRequest_of_holder {e : StagedEntry} (hopen : s.session = some x) (hholder : x.holder = h) :
    (∀ i l, stageInto e x.staging = some (i, l) →
      stageRequest h (some e) s =
        ({ s with session := some { x.restarted s with staging := l } }, okWith [byte i, byte l.length])) ∧
    (stageInto e x.staging = none →
      stageRequest h (some e) s = ({ s with session := some (x.restarted s) }, bare .stagingFull)) := by
  have hstaging : (x.restarted s).staging = x.staging := rfl
  refine ⟨fun i l hinto => ?_, fun hinto => ?_⟩ <;> rw [stageRequest, withSession_of_holder hopen hholder] <;>
    simp only [hstaging, hinto]

/-- Settles O48: the record reads back, and its entry finds its place, room at the tail, or none. -/
theorem stagingPlacesAnEntry : Obligations.StagingPlacesAnEntry := by
  intro s c h rt req x e hrow hserves hpresent hopen hholder hrecord
  have hstage : performRequest h req s = stageRequest h (some e) s := by
    rcases hrecord with ⟨n, d, v, rfl, hv, hrange, rfl⟩ | ⟨n, d, v, rfl, hv, hrange, rfl⟩ | ⟨g, d, v, rfl, hv, hroute, rfl⟩ |
      ⟨p, v, rfl, hv, hrange, rfl⟩
    · rw [performRequest, stageSourceRequest, parseStageSource_line hv hrange]
    · rw [performRequest, stageSourceRequest, parseStageSource_posted hv hrange]
    · rw [performRequest, stageGroupRequest, parseStageGroup_bytes hv hroute]
    · rw [performRequest, stagePolicyRequest, parseStagePolicy_bytes hv hrange]
  have hcarry := (carryOut_of_present s h req hpresent).trans hstage
  obtain ⟨hplaced, hfull⟩ := stageRequest_of_holder (e := e) hopen hholder
  cases hinto : stageInto e x.staging with
  | none =>
    obtain ⟨t, hexec, hsession, hpolicy, htables, hpool, hhosts, hattn, hboard, hreplies⟩ :=
      exec_row_session hrow hserves (hcarry.trans (hfull hinto))
    refine ⟨t, hexec, hpolicy, htables, hpool, hhosts, hattn, hboard, fun before after old hlist hold hbefore => ?_,
      fun hnew hroom => ?_, fun _ _ => ⟨hsession, hreplies⟩⟩
    · rw [hlist, stageInto_replaces hold hbefore] at hinto
      cases hinto
    · rw [stageInto_of_new hnew, if_pos hroom] at hinto
      cases hinto
  | some p =>
    obtain ⟨i, l⟩ := p
    obtain ⟨t, hexec, hsession, hpolicy, htables, hpool, hhosts, hattn, hboard, hreplies⟩ :=
      exec_row_session hrow hserves (hcarry.trans (hplaced i l hinto))
    refine ⟨t, hexec, hpolicy, htables, hpool, hhosts, hattn, hboard, fun before after old hlist hold hbefore => ?_,
      fun hnew hroom => ?_, fun hnew hnoroom => ?_⟩
    · rw [hlist, stageInto_replaces hold hbefore] at hinto
      obtain ⟨rfl, rfl⟩ := Prod.mk.inj (Option.some.inj hinto)
      have hlength : (before ++ e :: after).length = x.staging.length := by simp [hlist]
      exact ⟨hsession, hlength ▸ hreplies⟩
    · rw [stageInto_of_new hnew, if_pos hroom] at hinto
      obtain ⟨rfl, rfl⟩ := Prod.mk.inj (Option.some.inj hinto)
      have hlength : (x.staging ++ [e]).length = x.staging.length + 1 := by simp
      exact ⟨hsession, hlength ▸ hreplies⟩
    · rw [stageInto_of_new hnew, if_neg (Nat.not_lt.mpr hnoroom)] at hinto
      cases hinto

/-! ### The end of a session -/

theorem noticePlaced_place {g : HostId} (n : Notice) (htakes : (s.host g).presence.takesNotices = true) :
    NoticePlaced s (place g n s) g n ∧ OtherHostsKept g s (place g n s) := by
  have hplace : place g n s = s.setHost g ((s.host g).enqueue n) := if_pos htakes
  rw [hplace]
  refine ⟨?_, fun k hk => State.host_setHost_ne _ _ _ _ hk⟩
  rw [NoticePlaced, State.host_setHost_same]
  exact enqueue_cases _ n

/-- Settles O53: the expiry tells the former holder, DISCARD answers. -/
theorem sessionsEndWithoutCommit : Obligations.SessionsEndWithoutCommit := by
  refine ⟨fun s x hclock hopen hdue hpresent => ?_, fun s h rt x hserves hpresent hopen hholder => ?_⟩
  · have hevent : sessionEvent s = settle (expireSession x s) := by simp [sessionEvent, hopen, hdue]
    have hexec : exec .sessionTimerExpiry s = .next (settle (expireSession x s)) := by
      rw [← hevent]
      exact if_pos (clocked_iff.mpr hclock)
    have htakes : (({ s with session := none } : State).host x.holder).presence.takesNotices = true := by
      rw [show ({ s with session := none } : State).host x.holder = s.host x.holder from rfl, hpresent]
      rfl
    obtain ⟨hplaced, hothers⟩ := noticePlaced_place (.sessionExpired x.staging.length) htakes
    have hplace : expireSession x s = ({ s with session := none } : State).setHost x.holder
        ((s.host x.holder).enqueue (.sessionExpired x.staging.length)) := if_pos htakes
    refine ⟨_, hexec, ?_, ?_, hplaced, hothers, ?_, ?_, ?_, ?_, attnSettled_settle _⟩ <;> rw [hplace]
    · rfl
    · rfl
    · exact ⟨⟨rfl, rfl⟩, rfl⟩
    · exact ⟨rfl, rfl⟩
    · rfl
    · exact ⟨rfl, rfl, rfl, rfl, rfl, rfl, rfl⟩
  · have hcarry : carryOut h .discard s = ({ s with session := none }, okWith [byte x.staging.length]) := by
      rw [carryOut_of_present s h .discard hpresent, performRequest, discardRequest, withSession_of_holder hopen hholder]
      rfl
    exact exec_row_session (c := .discard h rt) (a := okWith [byte x.staging.length]) rfl hserves hcarry

end Sys2Proof.Machine
end

section
/-! LEAVE GRACEFUL and CLAIM (O30, O36, O37). -/

namespace Sys2Proof.Machine

variable {s t : State} {h : HostId} {rt : RequestTag} {req : Request} {a : Answer}

/-! ### The windows of a host that leaves PRESENT (R57) -/

theorem openedFor_congr {v : Tag} (hrecord : t.record v = s.record v) (hdescs : t.descs = s.descs) :
    openedFor t h v = openedFor s h v := by
  have hterms := fun o => State.termsOf_of_descs (s := s) (t := t) hdescs o
  simp only [openedFor, State.occ, hrecord, hterms]

/-- One step of `openWindowsOf`: record `u` opens if its window is for `h`. -/
theorem openRecord_of_prefers (s : State) (h : HostId) (u v : Tag) :
    (if s.prefers h u then openRecord u s else s).record v = if v = u then openedFor s h u else s.record v := by
  have hsame : v = u → (if s.prefers h u then openRecord u s else s).record v = openedFor s h u := by
    rintro rfl
    unfold State.prefers openRecord openedFor
    cases hc : s.occ v with
    | none => simp
    | some c =>
      by_cases hp : (s.termsOf c.origin).preferred = some h <;> cases hphase : c.phase <;> simp [hp, hphase]
  by_cases hv : v = u
  · rw [if_pos hv]
    exact hsame hv
  · rw [if_neg hv]
    split
    · exact (openRecord_record s u v).resolve_right fun h' => hv h'.1
    · rfl

theorem foldl_openWindows (h : HostId) : ∀ (l : List Tag) (s : State), l.Nodup →
    ∀ v, (l.foldl (fun s u => if s.prefers h u then openRecord u s else s) s).record v =
      if v ∈ l then openedFor s h v else s.record v := by
  intro l
  induction l with
  | nil => exact fun _ _ _ => rfl
  | cons u l ih =>
    intro s hl v
    obtain ⟨hu, hl⟩ := List.nodup_cons.mp hl
    have hdescs : (if s.prefers h u then openRecord u s else s).descs = s.descs := by
      split
      · exact descs_openRecord s u
      · rfl
    rw [List.foldl_cons, ih _ hl, openRecord_of_prefers]
    by_cases hv : v = u
    · subst hv
      simp [hu]
    · have hrecord := openRecord_of_prefers s h u v
      rw [if_neg hv] at hrecord
      rw [if_neg hv, openedFor_congr hrecord hdescs]
      simp [hv]

/-- Every record after `h` has left PRESENT (R57). -/
theorem openWindowsOf_record (h : HostId) (s : State) (v : Tag) : (openWindowsOf h s).record v = openedFor s h v := by
  rw [openWindowsOf, foldl_openWindows h tags s (List.nodup_finRange 32), if_pos (mem_tags v)]

theorem openRecord_records (u : Tag) (s : State) : ∃ r, openRecord u s = { s with records := r } := by
  unfold openRecord
  split
  · split
    · exact ⟨_, rfl⟩
    · exact ⟨s.records, rfl⟩
  · exact ⟨s.records, rfl⟩

/-- Nothing but records changes. -/
theorem openWindowsOf_records (h : HostId) (s : State) : ∃ r, openWindowsOf h s = { s with records := r } := by
  suffices hfold : ∀ (l : List Tag) (s : State),
      ∃ r, l.foldl (fun s u => if s.prefers h u then openRecord u s else s) s = { s with records := r } from hfold tags s
  intro l
  induction l with
  | nil => exact fun s => ⟨s.records, rfl⟩
  | cons u l ih =>
    intro s
    have hstep : ∃ r, (if s.prefers h u then openRecord u s else s) = { s with records := r } := by
      split
      · exact openRecord_records u s
      · exact ⟨s.records, rfl⟩
    obtain ⟨r, hr⟩ := hstep
    obtain ⟨r', hr'⟩ := ih { s with records := r }
    exact ⟨r', by rw [List.foldl_cons, hr, hr']⟩

/-! ### LEAVE GRACEFUL -/

theorem dropSession_eq (h : HostId) (s : State) : dropSession h s =
    { s with session := if s.session.any (fun x => decide (x.holder = h)) then none else s.session } := by
  unfold dropSession
  split
  · rename_i x hs
    by_cases hx : x.holder = h
    · have hany : s.session.any (fun x => decide (x.holder = h)) = true := by simp [hs, hx]
      rw [if_pos hx, if_pos hany]
    · have hany : ¬ s.session.any (fun x => decide (x.holder = h)) = true := by simp [hs, hx]
      rw [if_neg hx, if_neg hany]
  · rename_i hs
    have hany : ¬ s.session.any (fun x => decide (x.holder = h)) = true := by simp [hs]
    rw [if_neg hany]

/-- What the windows of `h` leave of a state that differs from `s` in the session and in the context of `h`. -/
theorem left_of {y : Option Session} {x : HostContext} {w : PortWork}
    (ht : t = setWork h w (settle (openWindowsOf h (({ s with session := y } : State).setHost h x)))) :
    t.host h = x ∧ OtherHostsKept h s t ∧ t.lists = s.lists ∧ (∀ u, t.record u = openedFor s h u) ∧
      SameTables s t ∧ SameBoard s t ∧ t.policy = s.policy ∧ t.session = y ∧ AttnSettled t := by
  have hrecord := openWindowsOf_record h (({ s with session := y } : State).setHost h x)
  obtain ⟨r, hr⟩ := openWindowsOf_records h (({ s with session := y } : State).setHost h x)
  rw [hr] at ht hrecord
  subst ht
  exact ⟨State.host_setHost_same _ _ _, fun _ hg => State.host_setHost_ne _ _ _ _ hg, rfl, hrecord, ⟨⟨rfl, rfl⟩, rfl⟩,
    ⟨rfl, rfl, rfl, rfl, rfl, rfl, rfl⟩, rfl, rfl, attnSettled_setWork_settle _ _ _⟩

theorem flush_setStanding (h : HostId) (p : Presence) (f : Option Level) (s : State) :
    flush h (setStanding h p f s) = s.setHost h { s.host h with presence := p, floor := f, queue := [], overflow := false } := by
  simp [flush, setStanding, State.setHost_setHost]

theorem leaveGracefulRequest_eq {m : State}
    (hm : (if (s.host h).stack.length = 0 then flush h (setStanding h .absent none (dropSession h s))
      else setStanding h .draining none (dropSession h s)) = m) :
    leaveGracefulRequest h s =
      (openWindowsOf h m, okWith [byte (m.host h).presence.code, byte (s.host h).stack.length]) := by
  subst hm
  rfl

/-- The two outcomes of a LEAVE GRACEFUL (R127). -/
theorem leaveGracefulRequest_cases (s : State) (h : HostId) :
    ∃ x, leaveGracefulRequest h s =
        (openWindowsOf h (({ s with session := if s.session.any (fun x => decide (x.holder = h)) then none else s.session } :
          State).setHost h x), okWith [byte x.presence.code, byte (s.host h).stack.length]) ∧
      ((s.host h).stack = [] →
        x = { s.host h with presence := .absent, floor := none, queue := [], overflow := false }) ∧
      ((s.host h).stack ≠ [] → x = { s.host h with presence := .draining, floor := none }) := by
  by_cases hstack : (s.host h).stack = []
  · have hlength : (s.host h).stack.length = 0 := by rw [hstack]; rfl
    have hrequest := leaveGracefulRequest_eq (s := s) (h := h) (if_pos hlength)
    rw [flush_setStanding, dropSession_eq, State.host_setHost_same] at hrequest
    exact ⟨_, hrequest, fun _ => rfl, fun hne => absurd hstack hne⟩
  · have hlength : (s.host h).stack.length ≠ 0 := fun h' => hstack (List.eq_nil_of_length_eq_zero h')
    have hrequest := leaveGracefulRequest_eq (s := s) (h := h) (if_neg hlength)
    rw [setStanding, dropSession_eq, State.host_setHost_same] at hrequest
    exact ⟨_, hrequest, fun hempty => absurd hempty hstack, fun _ => rfl⟩

/-- Settles O30: by the stack, empty or not. -/
theorem leaveGracefulDrainsOrLeaves : Obligations.LeaveGracefulDrainsOrLeaves := by
  intro s h rt hserves hpresent
  obtain ⟨x, hrequest, hempty, hheld⟩ := leaveGracefulRequest_cases s h
  have hcarry := carryOut_of_present s h (.leave 0) hpresent
  rw [performRequest, leaveRequest, if_pos rfl, hrequest, settleAnswered_of_ok _ rfl] at hcarry
  have hexec := exec_row_carried (c := .leaveGraceful h rt) rfl hserves hcarry
  obtain ⟨hhost, hothers, hlists, hrecords, htables, hboard, hpolicy, hsession, hattn⟩ := left_of rfl
  obtain ⟨r, hr⟩ := openWindowsOf_records h (({ s with session := if s.session.any (fun x => decide (x.holder = h)) then none
    else s.session } : State).setHost h x)
  have hports : (settle (openWindowsOf h (({ s with session := if s.session.any (fun x => decide (x.holder = h)) then none
      else s.session } : State).setHost h x))).ports = s.ports := by
    rw [hr]
    rfl
  have hreplies := replies_setWork hports h rt (.leave 0) (okWith [byte x.presence.code, byte (s.host h).stack.length])
  refine ⟨_, hexec, fun hnil => ⟨hhost.trans (hempty hnil), ?_⟩, fun hne => ⟨hhost.trans (hheld hne), ?_⟩, hothers, hlists,
    hrecords, htables, hboard, hpolicy, hsession, hattn⟩
  · refine (congrArg (Replies s _ h rt (.leave 0) .ok) ?_).mp hreplies
    rw [hempty hnil, hnil]
    rfl
  · refine (congrArg (Replies s _ h rt (.leave 0) .ok) ?_).mp hreplies
    rw [hheld hne]
    rfl

/-! ### CLAIM -/

theorem levels_split (l : Level) : ∃ before after, levels = before ++ l :: after ∧ ∀ k ∈ before, k < l := by
  obtain ⟨before, after, hsplit⟩ := List.append_of_mem (List.mem_finRange l)
  have hsorted := List.pairwise_lt_finRange 4
  rw [hsplit, List.pairwise_append] at hsorted
  exact ⟨before, after, hsplit, fun k hk => hsorted.2.2 k hk l List.mem_cons_self⟩

theorem find?_offerable_none {l : Level} (hnone : ∀ v ∈ s.list l, ¬ Offerable s h v) :
    (s.list l).find? (s.offerable h) = none :=
  List.find?_eq_none.mpr fun v hv hoffer => hnone v hv ((State.offerable_iff s h v).mp hoffer)

/-- The record that CLAIM selects (R62). -/
theorem selection_eq {u : Tag} {l : Level} {before after : List Tag} (hoffer : Offerable s h u)
    (hlist : s.list l = before ++ u :: after) (hbefore : ∀ v ∈ before, ¬ Offerable s h v)
    (hlower : ∀ k, k < l → ∀ v ∈ s.list k, ¬ Offerable s h v) : s.selection h = some u := by
  have hfind : (s.list l).find? (s.offerable h) = some u := by
    rw [hlist, List.find?_append, List.find?_eq_none.mpr fun v hv ho => hbefore v hv ((State.offerable_iff s h v).mp ho),
      Option.none_or, List.find?_cons_of_pos ((State.offerable_iff s h u).mpr hoffer)]
  obtain ⟨lower, upper, hlevels, hlt⟩ := levels_split l
  rw [State.selection, List.findSome?_eq_some_iff]
  exact ⟨lower, l, upper, hlevels, hfind, fun k hk => find?_offerable_none (hlower k (hlt k hk))⟩

theorem claimRequest_of_selection {u : Tag} {c : Occurrence} (hselection : s.selection h = some u) (hc : s.occ u = some c) :
    claimRequest h s = (takeClaim h u c s,
      okWith (claimData u ((s.record u).epoch + 1) c (s.leaseOf c.origin) (s.snapshotOf c.origin))) := by
  simp [claimRequest, hselection, hc]

theorem present_of_offerable {u : Tag} (hoffer : Offerable s h u) : (s.host h).presence = .present := by
  cases hc : s.occ u with
  | none => simp [Offerable, hc] at hoffer
  | some c =>
    have hconditions : OfferConditions s h c := by simpa [Offerable, hc] using hoffer
    exact hconditions.1

/-- What the claim procedure leaves, without the snapshot of a group. -/
theorem claimRecord_keeps {u : Tag} {c : Occurrence} {before after : List Tag}
    (hlist : s.list c.level = before ++ u :: after) (hbefore : u ∉ before) (hafter : u ∉ after) :
    (claimRecord h u c s).record u =
        { epoch := (s.record u).epoch + 1, timer := .running (s.leaseOf c.origin).toNat
          occ := some { c with phase := .claimed h 0 (s.snapshotOf c.origin) } } ∧
      OtherRecordsKept u s (claimRecord h u c s) ∧ (claimRecord h u c s).list c.level = before ++ after ∧
      (∀ l, l ≠ c.level → (claimRecord h u c s).list l = s.list l) ∧
      (claimRecord h u c s).host h = { s.host h with stack := ⟨u, c.level⟩ :: (s.host h).stack } ∧
      OtherHostsKept h s (claimRecord h u c s) := by
  refine ⟨by simp [claimRecord], fun v hv => by simp [claimRecord, leaveList, hv], ?_, fun l hl => ?_, ?_, ?_⟩
  · have hkept : ∀ l : List Tag, u ∉ l → l.filter (fun v => decide (v ≠ u)) = l := fun l hl =>
      List.filter_eq_self.mpr fun v hv => decide_eq_true fun h' => hl (h' ▸ hv)
    have hleave : (s.list c.level).filter (fun v => decide (v ≠ u)) = before ++ after := by
      rw [hlist, List.filter_append, List.filter_cons_of_neg (by simp), hkept before hbefore, hkept after hafter]
    exact (State.list_setList_same s c.level _).trans hleave
  · simp [claimRecord, leaveList, hl]
  · exact State.host_setHost_same _ _ _
  · exact fun g hg => State.host_setHost_ne _ _ _ _ hg

/-- Settles O36: the record is selected, and the claim procedure reaches nothing else. -/
theorem claimTakesTheSelectedRecord : Obligations.ClaimTakesTheSelectedRecord := by
  intro s h rt u c before after hserves hc hoffer hlist hafter hbefore hlower hkind hposted
  have hselection := selection_eq hoffer hlist hbefore hlower
  have hsnapshot : s.snapshotOf c.origin = [] := by
    cases ho : c.origin with
    | group g => exact absurd ho (hkind g)
    | line | posted => rfl
  obtain ⟨m, hm⟩ : ∃ m, m = claimRecord h u c s := ⟨_, rfl⟩
  have hclaim : takeClaim h u c s = m := by
    rw [takeClaim_eq, hm]
    cases ho : c.origin with
    | group g => exact absurd ho (hkind g)
    | line | posted => rfl
  have hdata : claimData u ((s.record u).epoch + 1) c (s.leaseOf c.origin) [] =
      [byte u.val, (s.record u).epoch + 1, (if c.posted = none then 0 else 2),
          byte c.origin.number, c.seq, byte c.level.val, byte c.merge, byte c.reoffer] ++
        bytes16 (s.policy.lease.look (s.termsOf c.origin).leaseClass) ++
        (match c.posted with
          | some p => bytes16 p.payload ++ [byte p.raiser.val]
          | none => []) := by
    cases ho : c.origin with
    | group g => exact absurd ho (hkind g)
    | line n =>
      have hnone : c.posted = none := by
        by_contra hsome
        obtain ⟨m, hm⟩ := hposted.mpr hsome
        exact absurd (ho.symm.trans hm) nofun
      simp [claimData, kindData, ho, hnone, State.leaseOf, Origin.kindCode, byte]
    | posted n =>
      obtain ⟨p, hp⟩ := Option.ne_none_iff_exists'.mp (hposted.mp ⟨n, ho⟩)
      simp [claimData, kindData, ho, hp, State.leaseOf, Origin.kindCode, byte]
  have hcarry := carryOut_of_present s h .claim (present_of_offerable hoffer)
  rw [performRequest, claimRequest_of_selection hselection hc, hsnapshot, hclaim, settleAnswered_of_ok _ rfl] at hcarry
  have hexec := exec_row_carried (c := .claim h rt) rfl hserves hcarry
  have hout : u ∉ before := fun hu => hbefore u hu hoffer
  obtain ⟨hrecord, hrecords, hlevel, hlists, hhost, hhosts⟩ := claimRecord_keeps (h := h) hlist hout hafter
  rw [hsnapshot] at hrecord
  have hkept : SameTables s m ∧ SameBoard s m ∧ SameSession s m ∧ m.ports = s.ports := by
    rw [hm]
    exact ⟨⟨⟨rfl, rfl⟩, rfl⟩, ⟨rfl, rfl, rfl, rfl, rfl, rfl, rfl⟩, ⟨rfl, rfl⟩, rfl⟩
  obtain ⟨htables, hboard, hsession, hports⟩ := hkept
  rw [← hm] at hrecord hrecords hlevel hlists hhost hhosts
  have hreplies := replies_setWork (s := s) (t := settle m) hports h rt .claim
    (okWith (claimData u ((s.record u).epoch + 1) c (s.leaseOf c.origin) []))
  exact ⟨_, hexec, hrecord, hrecords, hlevel, hlists, hhost, hhosts, htables, hboard, hsession,
    (congrArg (Replies s _ h rt .claim .ok) hdata).mp hreplies, attnSettled_setWork_settle _ _ _⟩

/-! ### The snapshot of a group -/

theorem mem_insertSource {n m : LineId} {l : List LineId} : n ∈ insertSource m l ↔ n = m ∨ n ∈ l := by
  induction l with
  | nil => simp [insertSource]
  | cons k l ih =>
    unfold insertSource
    split
    · simp
    · split
      · rename_i hm
        subst hm
        simp
      · rw [List.mem_cons, ih, List.mem_cons]
        tauto

theorem pairwise_insertSource {m : LineId} {l : List LineId} (hl : l.Pairwise (· < ·)) :
    (insertSource m l).Pairwise (· < ·) := by
  induction l with
  | nil => simp [insertSource]
  | cons k l ih =>
    obtain ⟨hk, hrest⟩ := List.pairwise_cons.mp hl
    unfold insertSource
    split
    · rename_i hm
      refine List.pairwise_cons.mpr ⟨fun n hn => ?_, hl⟩
      rcases List.mem_cons.mp hn with rfl | hn
      · exact hm
      · exact lt_trans hm (hk n hn)
    · split
      · exact hl
      · rename_i hnot hne
        refine List.pairwise_cons.mpr ⟨fun n hn => ?_, ih hrest⟩
        rcases mem_insertSource.mp hn with rfl | hn
        · exact lt_of_le_of_ne (not_lt.mp hnot) (Ne.symm hne)
        · exact hk n hn

/-- The sources of a list put into a set, one by one. -/
def insertAll (ns set : List LineId) : List LineId := ns.foldl (fun set n => insertSource n set) set

theorem mem_insertAll {n : LineId} : ∀ {ns set : List LineId}, n ∈ insertAll ns set ↔ n ∈ ns ∨ n ∈ set := by
  intro ns
  induction ns with
  | nil => simp [insertAll]
  | cons m ns ih =>
    intro set
    rw [insertAll, List.foldl_cons, ← insertAll, ih, mem_insertSource, List.mem_cons]
    tauto

theorem pairwise_insertAll : ∀ {ns set : List LineId}, set.Pairwise (· < ·) → (insertAll ns set).Pairwise (· < ·) := by
  intro ns
  induction ns with
  | nil => exact id
  | cons m ns ih => exact fun hset => ih (pairwise_insertSource hset)

theorem State.setGroup_setGroup (s : State) (g : GroupId) (x y : Group) : (s.setGroup g x).setGroup g y = s.setGroup g y := by
  simp [State.setGroup, Table.put]

theorem Table.put_look {α : Type} {n : Nat} (v : Table α n) (i : Fin n) : v.put i (v.look i) = v := by
  simp [Table.put, Table.look]

theorem State.setGroup_self (s : State) (g : GroupId) : s.setGroup g (s.group g) = s := by
  rw [State.setGroup, State.group, Table.put_look]

/-- A member trigger at an enabled group whose record is CLAIMED does no more than collect (R101). -/
theorem memberTrigger_of_claimed {n : LineId} {g : GroupId} {u : Tag} {c : Occurrence} (henabled : (s.group g).desc.enabled = true)
    (hunstarved : (s.group g).starved = false) (hlive : (s.group g).live = some u) (hc : s.occ u = some c)
    (hclaimed : c.phase.isClaimed = true) : memberTrigger n g s = joinCollect n g s := by
  have hpending : (joinCollect n g s).isPendingTag u = false := by
    rw [State.isPendingTag_of_occ (show (joinCollect n g s).occ u = some c from hc)]
    simpa [Phase.isClaimed] using hclaimed
  have hgroup := group_joinCollect n g s
  simp only [memberTrigger, henabled, if_true]
  rw [← joinCollect, hgroup]
  simp [hunstarved, hlive, hpending]

/-- The members that fire, in order. -/
def firing (s : State) (ns : List LineId) : List LineId :=
  ns.filter (fun n => (s.line n).desc.enabled && s.stands n)

/-- Members that fire into a group whose record is CLAIMED are collected. -/
theorem fireMembers_of_claimed {g : GroupId} {u : Tag} {c : Occurrence} (hclaimed : c.phase.isClaimed = true) :
    ∀ (ns : List LineId) (s : State), (s.group g).desc.enabled = true → (s.group g).starved = false →
      (s.group g).live = some u → s.occ u = some c →
      fireMembers g ns s = s.setGroup g { s.group g with collect := insertAll (firing s ns) (s.group g).collect } := by
  intro ns
  induction ns with
  | nil =>
    intro s _ _ _ _
    exact (State.setGroup_self s g).symm
  | cons n ns ih =>
    intro s henabled hunstarved hlive hc
    have hcons : fireMembers g (n :: ns) s =
        fireMembers g ns (if (s.line n).desc.enabled ∧ s.stands n then memberTrigger n g s else s) := rfl
    by_cases hfires : (s.line n).desc.enabled = true ∧ s.stands n = true
    · have hfiring : firing s (n :: ns) = n :: firing s ns := List.filter_cons_of_pos (by simpa using hfires)
      have hgroup := group_joinCollect n g s
      rw [hcons, if_pos hfires, memberTrigger_of_claimed henabled hunstarved hlive hc hclaimed,
        ih (joinCollect n g s) (by rw [hgroup]; exact henabled) (by rw [hgroup]; exact hunstarved)
          (by rw [hgroup]; exact hlive) hc, hgroup, hfiring]
      exact State.setGroup_setGroup _ _ _ _
    · have hfiring : firing s (n :: ns) = firing s ns := List.filter_cons_of_neg (by simpa using hfires)
      rw [hcons, if_neg hfires, ih s henabled hunstarved hlive hc, hfiring]

/-- Settles O37: the snapshot empties the collect set, and the standing members come back into it. -/
theorem claimTakesTheGroupSnapshot : Obligations.ClaimTakesTheGroupSnapshot := by
  intro s h rt u c g before after hserves hc hoffer hgroup hlist hafter hbefore hlower henabled hunstarved hlive
  have hselection := selection_eq hoffer hlist hbefore hlower
  have hsnapshot : s.snapshotOf c.origin = (s.group g).collect := by rw [hgroup]; rfl
  have hout : u ∉ before := fun hu => hbefore u hu hoffer
  obtain ⟨hrecord, hrecords, hlevel, hlists, hhost, hhosts⟩ := claimRecord_keeps (h := h) hlist hout hafter
  have hleases : s.leaseOf c.origin = s.policy.lease.look (s.group g).desc.terms.leaseClass := by rw [hgroup]; rfl
  rw [hsnapshot, hleases] at hrecord
  obtain ⟨m, hm⟩ : ∃ m, m = (claimRecord h u c s).setGroup g { s.group g with
    collect := insertAll (firing s (s.membersOf g)) [] } := ⟨_, rfl⟩
  have hclaim : takeClaim h u c s = m := by
    have hocc : (claimRecord h u c s).occ u = some { c with phase := .claimed h 0 (s.group g).collect } := by
      rw [State.occ, hrecord]
    obtain ⟨k, hk⟩ : ∃ k, k = (claimRecord h u c s).setGroup g { s.group g with collect := [] } := ⟨_, rfl⟩
    have hkg : k.group g = { s.group g with collect := [] } := by rw [hk, State.group_setGroup_same]
    have hmembers : firing k (k.membersOf g) = firing s (s.membersOf g) := by rw [hk]; rfl
    have hfire := fireMembers_of_claimed (g := g) (u := u) (c := { c with phase := .claimed h 0 (s.group g).collect }) rfl
      (k.membersOf g) k (by rw [hkg]; exact henabled) (by rw [hkg]; exact hunstarved) (by rw [hkg]; exact hlive)
      (by rw [hk]; exact hocc)
    rw [hkg, hmembers, hk, State.setGroup_setGroup, ← hm] at hfire
    rw [takeClaim_eq, hgroup]
    exact hfire
  have hdata : claimData u ((s.record u).epoch + 1) c (s.leaseOf c.origin) (s.snapshotOf c.origin) =
      [byte u.val, (s.record u).epoch + 1, 1, byte (64 + g.val), c.seq, byte c.level.val, byte c.merge, byte c.reoffer] ++
        bytes16 (s.policy.lease.look (s.group g).desc.terms.leaseClass) ++
        byte (s.group g).collect.length :: (s.group g).collect.map (fun n => byte n.val) := by
    rw [hsnapshot, hleases]
    simp [claimData, kindData, hgroup, Origin.kindCode, Origin.number, byte]
  have hcarry := carryOut_of_present s h .claim (present_of_offerable hoffer)
  rw [performRequest, claimRequest_of_selection hselection hc, hclaim, settleAnswered_of_ok _ rfl] at hcarry
  have hexec := exec_row_carried (c := .claim h rt) rfl hserves hcarry
  have hcollected : m.group g = { s.group g with collect := insertAll (firing s (s.membersOf g)) [] } := by
    rw [hm, State.group_setGroup_same]
  have hothers : OtherGroupsKept g s m := fun k hk => by
    rw [hm, State.group_setGroup_ne _ _ _ _ hk]
    rfl
  have hset : ∀ n, n ∈ (m.group g).collect ↔ (s.line n).desc.group = some g ∧ (s.line n).desc.enabled = true ∧
      (s.line n).filter.any (fun f => decide (AtActiveLevel (s.line n).desc.sense f.filtered)) = true := by
    intro n
    rw [hcollected]
    simp only [mem_insertAll, firing, List.mem_filter, State.mem_membersOf, State.stands_eq, Bool.and_eq_true,
      List.not_mem_nil, or_false]
  have hsorted : (m.group g).collect.Pairwise (fun a b => a < b) := by
    rw [hcollected]
    exact pairwise_insertAll List.Pairwise.nil
  have hself : m.group g = { s.group g with collect := (m.group g).collect } := by rw [hcollected]
  have hkept : SameSources s m ∧ SameBoard s m ∧ SameSession s m ∧ m.ports = s.ports := by
    rw [hm]
    exact ⟨⟨rfl, rfl⟩, ⟨rfl, rfl, rfl, rfl, rfl, rfl, rfl⟩, ⟨rfl, rfl⟩, rfl⟩
  obtain ⟨hsources, hboard, hsession, hports⟩ := hkept
  have hsame : m.records = (claimRecord h u c s).records ∧ m.lists = (claimRecord h u c s).lists ∧
      m.hosts = (claimRecord h u c s).hosts := by
    rw [hm]
    exact ⟨rfl, rfl, rfl⟩
  obtain ⟨hr, hl, hh⟩ := hsame
  simp only [OtherRecordsKept, OtherHostsKept, State.record, State.list, State.host, ← hr, ← hl,
    ← hh] at hrecord hrecords hlevel hlists hhost hhosts
  have hreplies := replies_setWork (s := s) (t := settle m) hports h rt .claim
    (okWith (claimData u ((s.record u).epoch + 1) c (s.leaseOf c.origin) (s.snapshotOf c.origin)))
  exact ⟨_, hexec, hrecord, hrecords, hlevel, hlists, hhost, hhosts, hsources, hothers, hself, hset, hsorted, hboard, hsession,
    (congrArg (Replies s _ h rt .claim .ok) hdata).mp hreplies, attnSettled_setWork_settle _ _ _⟩

end Sys2Proof.Machine
end

section
/-! The freeing of a CLAIMED record and the return procedure, as the terms of the statements say them (sections 3.6 to
3.8). -/

namespace Sys2Proof.Machine

variable {s s' t t' : State} {u : Tag} {c : Occurrence} {h : HostId}

/-! ### Exclusion sets and counts -/

theorem covers_eq : ∀ set route : HostSet, covers set route = decide (∀ g, hasHost route g = true → hasHost set g = true) := by
  decide

/-- An exclusion set after an enlargement (R33). -/
theorem enlarge_eq (route set more : HostSet) : enlarge route set more = excludedAfter route (set ||| more) := by
  rw [enlarge, covers_eq, excludedAfter]
  simp only [decide_eq_true_eq]

/-- The fields of a returning record before its Again mark is merged. -/
def returning (terms : Terms) (h : HostId) (c : Occurrence) : Occurrence :=
  { c with exclusion := enlarge terms.route c.exclusion (hostBit h), reoffer := c.reoffer + 1 }

theorem againMerged_returning (terms : Terms) (h : HostId) (c : Occurrence) :
    (returning terms h c).againMerged = returnedFields terms h c := by
  unfold Occurrence.againMerged returning returnedFields
  rw [enlarge_eq]
  cases hagain : c.again <;> simp [saturate, Config.countMax]

/-! ### What a statement about freeing reads -/

/-- The starved marks, terms and counters are those of `s`. -/
structure SameStarvation (s s' : State) : Prop where
  line : ∀ n, s'.line n = s.line n
  desc : ∀ g, (s'.group g).desc = (s.group g).desc
  starved : ∀ g, (s'.group g).starved = (s.group g).starved
  seq : ∀ g, (s'.group g).seq = (s.group g).seq

theorem SameStarvation.trans {s'' : State} (h : SameStarvation s s') (h' : SameStarvation s' s'') :
    SameStarvation s s'' :=
  ⟨fun n => (h'.line n).trans (h.line n), fun g => (h'.desc g).trans (h.desc g),
    fun g => (h'.starved g).trans (h.starved g), fun g => (h'.seq g).trans (h.seq g)⟩

theorem SameStarvation.of_tables (hline : s'.lineSources = s.lineSources) (hgroup : s'.groups = s.groups) :
    SameStarvation s s' := by
  have hg : ∀ g, s'.group g = s.group g := fun g => by rw [State.group, hgroup, State.group]
  exact ⟨fun n => by rw [State.line, hline, State.line], fun g => by rw [hg], fun g => by rw [hg], fun g => by rw [hg]⟩

theorem SameStarvation.noneStarved (h : SameStarvation s s') : NoneStarved s' ↔ NoneStarved s := by
  simp only [NoneStarved, h.line, h.starved]

theorem SameStarvation.firstLine (h : SameStarvation s s') (n : LineId) : FirstStarvedLine s' n ↔ FirstStarvedLine s n := by
  simp only [FirstStarvedLine, StarvedLine, h.line, h.starved, h.desc]

theorem SameStarvation.firstGroup (h : SameStarvation s s') (k : GroupId) : FirstStarvedGroup s' k ↔ FirstStarvedGroup s k := by
  simp only [FirstStarvedGroup, StarvedLine, h.line, h.starved, h.desc]

theorem returnedRecord_none_iff {epoch : Byte} {terms : Terms} {r : Record} :
    ReturnedRecord s none epoch terms c r ↔ EnteredRecord s epoch terms c r := by
  have hne : WindowHolds s terms c.exclusion → terms.preferred ≠ none := by
    rintro ⟨p, hp, -⟩ hnone
    exact absurd (hp.symm.trans hnone) nofun
  constructor
  · rintro ⟨hexcl, hopen⟩
    by_cases hwindow : WindowHolds s terms c.exclusion
    · exact .inl ⟨hwindow, hexcl ⟨hwindow, hne hwindow⟩⟩
    · exact .inr ⟨hwindow, hopen fun h' => hwindow h'.1⟩
  · rintro (⟨hwindow, hr⟩ | ⟨hwindow, hr⟩)
    · exact ⟨fun _ => hr, fun h' => absurd ⟨hwindow, hne hwindow⟩ h'⟩
    · exact ⟨fun h' => absurd h'.1 hwindow, fun _ => hr⟩

theorem returnedRecord_congr (hpresence : ∀ p, (s'.host p).presence = (s.host p).presence) {gone : Option HostId} {epoch : Byte}
    {terms : Terms} {r : Record} :
    ReturnedRecord s' gone epoch terms c r ↔ ReturnedRecord s gone epoch terms c r := by
  simp only [ReturnedRecord, windowHolds_congr hpresence]

/-- What becomes of a freed tag, told of a state with the same lists and starvation. -/
theorem TagAfterFreeing.of_same {gone : Option HostId} (hstarve : SameStarvation s s')
    (hepoch : (s'.record u).epoch = (s.record u).epoch) (hlists : s'.lists = s.lists)
    (hpresence : ∀ p, (s'.host p).presence = (s.host p).presence) (ht : TagAfterFreeing s' t gone u) :
    TagAfterFreeing s t gone u := by
  have hlist : ∀ l, s'.list l = s.list l := fun l => by rw [State.list, hlists, State.list]
  obtain ⟨hfree, hline, hgroup⟩ := ht
  refine ⟨fun hnone => ?_, fun n hn => ?_, fun k hk => ?_⟩
  · have hfreed := hfree (hstarve.noneStarved.mpr hnone)
    rwa [hepoch, hlists] at hfreed
  · have hgranted := hline n ((hstarve.firstLine n).mpr hn)
    simpa only [GrantedTag, returnedRecord_congr hpresence, hepoch, hlist, hstarve.line] using hgranted
  · have hgranted := hgroup k ((hstarve.firstGroup k).mpr hk)
    simpa only [GrantedTag, returnedRecord_congr hpresence, hepoch, hlist, hstarve.desc, hstarve.seq] using hgranted

theorem SameStarvation.lineAfterFreeing (hstarve : SameStarvation s s') (n : LineId) :
    lineAfterFreeing s' n = Machine.lineAfterFreeing s n := by
  simp only [Machine.lineAfterFreeing, hstarve.firstLine, hstarve.line]

theorem SameStarvation.groupAfterFreeing (hstarve : SameStarvation s s') {g : GroupId} (hg : s'.group g = s.group g) (o : Origin) :
    groupAfterFreeing s' u o g = Machine.groupAfterFreeing s u o g := by
  simp only [Machine.groupAfterFreeing, hstarve.firstGroup, hg]

/-! ### The grant -/

theorem seqOf_eq_of_starvation (hstarve : SameStarvation s s') {o : Origin} (ho : ∀ n, o ≠ .posted n) :
    s'.seqOf o = s.seqOf o := by
  cases o with
  | line n => exact congrArg LineSource.seq (hstarve.line n)
  | group g => exact hstarve.seq g
  | posted n => exact absurd rfl (ho n)

theorem grantMerge_line (s : State) (n : LineId) :
    s.grantMerge (.line n) = if (s.line n).desc.sense.isLevel then 0 else (s.line n).starved.getD 0 - 1 := by
  simp only [State.grantMerge]
  cases (s.line n).starved <;> rfl

theorem entersPending_grant (s : State) (u : Tag) (o : Origin) :
    EntersPending s (grant u o s) u (s.termsOf o)
      (createdFields o (s.seqOf o + 1) (s.termsOf o).level (s.grantMerge o) none 0) := by
  refine (entersPending_createRecord s u o (s.grantMerge o) none 0).to_eq (fun v => ?_) (fun l => ?_)
  · cases o <;> rfl
  · cases o <;> rfl

theorem grant_line (s : State) (u : Tag) (n m : LineId) : (grant u (.line n) s).line m =
    if m = n then { s.line n with starved := none, seq := (s.line n).seq + 1 } else s.line m := by
  have hcreate := createRecord_line s u (.line n) (s.grantMerge (.line n)) none 0
  by_cases hm : m = n
  · subst hm
    have hself := hcreate m
    rw [if_pos rfl] at hself
    rw [if_pos rfl, grant, clearStarved, setLineStarved, State.line_setLine_same, hself]
  · rw [if_neg hm, grant, clearStarved, setLineStarved, State.line_setLine_ne _ _ _ _ hm, hcreate m, if_neg]
    rintro ⟨⟩
    exact hm rfl

theorem grant_group (s : State) (u : Tag) (k g : GroupId) : (grant u (.group k) s).group g =
    if g = k then { s.group k with starved := false, seq := (s.group k).seq + 1, live := some u } else s.group g := by
  have hcreate := createRecord_group s u (.group k) (s.grantMerge (.group k)) none 0
  by_cases hg : g = k
  · subst hg
    have hself := hcreate g
    rw [if_pos rfl] at hself
    rw [if_pos rfl, grant, clearStarved, setGroupStarved, State.group_setGroup_same, hself]
  · rw [if_neg hg, grant, clearStarved, setGroupStarved, State.group_setGroup_ne _ _ _ _ hg, hcreate g, if_neg]
    rintro ⟨⟩
    exact hg rfl

theorem grant_tables_line (s : State) (u : Tag) (n : LineId) :
    (grant u (.line n) s).postedSources = s.postedSources ∧ (grant u (.line n) s).groups = s.groups :=
  ⟨createRecord_postedSources s u (o := .line n) (s.grantMerge (.line n)) none 0 nofun, createRecord_groups s u (o := .line n) (s.grantMerge (.line n)) none 0 nofun⟩

theorem grant_tables_group (s : State) (u : Tag) (k : GroupId) :
    (grant u (.group k) s).postedSources = s.postedSources ∧ (grant u (.group k) s).lineSources = s.lineSources :=
  ⟨createRecord_postedSources s u (o := .group k) (s.grantMerge (.group k)) none 0 nofun, createRecord_lineSources s u (o := .group k) (s.grantMerge (.group k)) none 0 nofun⟩

/-! ### The freeing of a record -/

theorem sameStarvation_vacate (s : State) (u : Tag) (c : Occurrence) : SameStarvation s (vacate u c s) := by
  refine ⟨vacate_line s u c, fun g => ?_, fun g => ?_, fun g => ?_⟩ <;> rw [vacate_group] <;> split <;> rfl

theorem vacate_lists_of_claimed (s : State) (u : Tag) (hclaimed : c.phase.isClaimed = true) :
    (vacate u c s).lists = s.lists := by
  have hpending : c.phase.isPending = false := by simpa [Phase.isClaimed] using hclaimed
  simp only [vacate, hpending]
  cases c.origin <;> rfl

theorem vacate_postedSources (s : State) (u : Tag) (c : Occurrence) : (vacate u c s).postedSources = s.postedSources := by
  unfold vacate
  cases c.origin <;> cases c.phase <;> rfl

/-- R41, R43, R44: where the record stands in no list, the tag is FREE or granted, and the grant is all that happens
besides. -/
theorem tagFreed_of_unlisted (hc : s.occ u = some c) (hunlisted : (vacate u c s).lists = s.lists) :
    TagFreed s (freeRecord u s) none u c := by
  obtain ⟨m, hm⟩ : ∃ m, m = vacate u c s := ⟨_, rfl⟩
  have hrecord : m.record u = { epoch := (s.record u).epoch, timer := .stopped, occ := none } := hm ▸ vacate_record_same s u c
  have hothers : OtherRecordsKept u s m := fun v hv => hm ▸ vacate_record_ne s u v c hv
  have hlists : m.lists = s.lists := hm ▸ hunlisted
  have hstarve : SameStarvation s m := hm ▸ sameStarvation_vacate s u c
  have hposted : m.postedSources = s.postedSources := hm ▸ vacate_postedSources s u c
  have hgroup : ∀ g, m.group g = if c.origin = .group g then { s.group g with live := none } else s.group g :=
    fun g => hm ▸ vacate_group s u c g
  have hterms : ∀ o, m.termsOf o = s.termsOf o := fun o => State.termsOf_of_descs (hm ▸ descs_vacate s u c) o
  have hpresence : ∀ p, (m.host p).presence = (s.host p).presence := fun p => by rw [hm, vacate_host]
  have hlist : ∀ l, m.list l = s.list l := fun l => by rw [State.list, hlists, State.list]
  have hfree : freeRecord u s = grantCheck u m := by rw [freeRecord_eq s u c hc, hm]
  have hgranted : ∀ o, EntersPending m (grant u o m) u (m.termsOf o)
      (createdFields o (m.seqOf o + 1) (m.termsOf o).level (m.grantMerge o) none 0) →
      (∀ n, o ≠ .posted n) →
      ∀ merge, m.grantMerge o = merge → GrantedTag s (grant u o m) none u (s.termsOf o)
        (createdFields o (s.seqOf o + 1) (s.termsOf o).level merge none 0) ∧
      ∀ v, v ≠ u → (grant u o m).record v = s.record v := by
    rintro o ⟨hentered, hjoined, hothers', hrecords⟩ ho merge rfl
    rw [hterms, seqOf_eq_of_starvation hstarve ho, hrecord] at hentered
    rw [hterms] at hjoined hothers'
    refine ⟨⟨returnedRecord_none_iff.mpr ?_, by rw [← hlist]; exact hjoined, fun l hl => by rw [← hlist]; exact hothers' l hl⟩,
      fun v hv => (hrecords v hv).trans (hothers v hv)⟩
    simpa only [EnteredRecord, windowHolds_congr hpresence] using hentered
  rw [hfree, grantCheck]
  obtain ⟨hchoice, hnone⟩ | ⟨n, hchoice, hfirst⟩ | ⟨k, hchoice, hfirst⟩ := grantChoice_cases m <;> rw [hchoice]
  · have hnone' := hstarve.noneStarved.mp hnone
    refine ⟨⟨fun _ => ⟨hrecord, hlists⟩, fun n hn => absurd hnone' hn.not_noneStarved,
      fun k hk => absurd hnone' hk.not_noneStarved⟩, hothers, ⟨fun n => ?_, hposted⟩, fun g => ?_⟩
    · rw [lineAfterFreeing, if_neg fun hn => hn.not_noneStarved hnone', hstarve.line]
    · rw [groupAfterFreeing, if_neg fun hk => hk.not_noneStarved hnone', hgroup]
  · have hfirst' := (hstarve.firstLine n).mp hfirst
    obtain ⟨hposted', hgroups'⟩ := grant_tables_line m u n
    obtain ⟨htag, hrecords⟩ := hgranted (.line n) (entersPending_grant m u _) nofun _ (grantMerge_line m n)
    rw [hstarve.line] at htag
    refine ⟨⟨fun hnone => absurd hnone hfirst'.not_noneStarved, fun n' hn' => ?_, fun k hk => absurd hk hfirst'.not_group⟩,
      hrecords, ⟨fun n' => ?_, hposted'.trans hposted⟩, fun g => ?_⟩
    · obtain rfl := hfirst'.unique hn'
      exact htag
    · rw [grant_line, lineAfterFreeing]
      by_cases hn : n' = n
      · subst hn
        rw [if_pos rfl, if_pos hfirst', hstarve.line]
      · rw [if_neg hn, if_neg fun h' => hn (h'.unique hfirst'), hstarve.line]
    · rw [State.group, hgroups', groupAfterFreeing, if_neg hfirst'.not_group]
      exact hgroup g
  · have hfirst' := (hstarve.firstGroup k).mp hfirst
    obtain ⟨hposted', hlines'⟩ := grant_tables_group m u k
    obtain ⟨htag, hrecords⟩ := hgranted (.group k) (entersPending_grant m u _) nofun 0 rfl
    refine ⟨⟨fun hnone => absurd hnone hfirst'.not_noneStarved, fun n hn => absurd hfirst' hn.not_group, fun k' hk' => ?_⟩,
      hrecords, ⟨fun n => ?_, hposted'.trans hposted⟩, fun g => ?_⟩
    · obtain rfl := hfirst'.unique hk'
      exact htag
    · rw [State.line, hlines', lineAfterFreeing, if_neg fun hn => hn.not_group hfirst']
      exact hstarve.line n
    · rw [grant_group, groupAfterFreeing]
      by_cases hg : g = k
      · subst hg
        rw [if_pos rfl, if_pos hfirst', hgroup]
      · rw [if_neg hg, if_neg fun h' => hg (h'.unique hfirst'), hgroup]

theorem tagFreed_freeRecord (hc : s.occ u = some c) (hclaimed : c.phase.isClaimed = true) :
    TagFreed s (freeRecord u s) none u c :=
  tagFreed_of_unlisted hc (vacate_lists_of_claimed s u hclaimed)

/-! ### Notices of an abandonment leave the pool alone -/

theorem place_eq (h : HostId) (n : Notice) (s : State) : ∃ x, place h n s = { s with hosts := x } := by
  unfold place
  split
  · exact ⟨_, rfl⟩
  · exact ⟨s.hosts, rfl⟩

theorem foldl_place_eq (who : HostId → Bool) (n : Notice) : ∀ (l : List HostId) (s : State),
    ∃ x, l.foldl (fun s h => if who h then place h n s else s) s = { s with hosts := x } := by
  intro l
  induction l with
  | nil => exact fun s => ⟨s.hosts, rfl⟩
  | cons g l ih =>
    intro s
    have hstep : ∃ x, (if who g then place g n s else s) = { s with hosts := x } := by
      split
      · exact place_eq g n s
      · exact ⟨s.hosts, rfl⟩
    obtain ⟨x, hx⟩ := hstep
    obtain ⟨y, hy⟩ := ih { s with hosts := x }
    exact ⟨y, by rw [List.foldl_cons, hx, hy]⟩

theorem placeAll_eq (who : HostId → Bool) (n : Notice) (s : State) : ∃ x, placeAll who n s = { s with hosts := x } :=
  foldl_place_eq who n hostIds s

/-- The notices of an abandonment (R46 steps 1 and 2). -/
def noticesOfAbandonment (c : Occurrence) (s : State) : State := noticePostedAbandoned c (noticeAbandoned c s)

theorem noticesOfAbandonment_eq (c : Occurrence) (s : State) : ∃ x, noticesOfAbandonment c s = { s with hosts := x } := by
  obtain ⟨x, hx⟩ : ∃ x, noticeAbandoned c s = { s with hosts := x } := placeAll_eq _ _ s
  unfold noticesOfAbandonment noticePostedAbandoned
  rw [hx]
  split
  · split
    · obtain ⟨y, hy⟩ := place_eq _ _ { s with hosts := x }
      exact ⟨y, hy⟩
    · exact ⟨x, rfl⟩
  · exact ⟨x, rfl⟩

theorem noticesOfAbandonment_standing (c : Occurrence) (s : State) (g : HostId) :
    ((noticesOfAbandonment c s).host g).standing = (s.host g).standing := by
  have hall : ((noticeAbandoned c s).host g).standing = (s.host g).standing := placeAll_standing s _ _ g
  unfold noticesOfAbandonment noticePostedAbandoned
  split
  · split
    · rw [place_standing, hall]
    · exact hall
  · exact hall

theorem presence_of_standing {x y : HostContext} (hxy : x.standing = y.standing) : x.presence = y.presence :=
  congrArg Prod.fst hxy

/-! ### The origin fires again after an abandonment -/

theorem firesAgain_line (s : State) (n : LineId) :
    firesAgain s (.line n) = ((s.line n).desc.enabled && s.stands n) := by
  rw [firesAgain, State.stands_eq]

theorem levelTest_of_not_fires {n : LineId} (hf : firesAgain s (.line n) = false) : levelTest n s = s := by
  rw [firesAgain_line] at hf
  exact if_neg (by simpa using hf)

theorem groupRequested_requestAfterAbandon (s : State) (g : GroupId) (w : Tag) :
    GroupRequested s (requestAfterAbandon g s) g w := by
  refine ⟨fun hnot => ?_, fun henabled hunstarved hlive hcollect => ?_⟩
  · have hskip : requestAfterAbandon g s = s := by
      refine if_neg ?_
      rintro ⟨henabled, hunstarved, hlive, hcollect⟩
      rcases hnot with h | h | h | h
      · exact absurd (henabled.symm.trans h) nofun
      · exact absurd (h.symm.trans hunstarved) nofun
      · exact h hlive
      · exact hcollect h
    rw [hskip]
    exact ⟨rfl, rfl, rfl⟩
  · have hrequest : requestAfterAbandon g s = requestGroup g s := if_pos ⟨henabled, hunstarved, hlive, hcollect⟩
    rw [hrequest]
    exact ⟨fun hfree => requestGroup_of_free hfree, fun hfull => requestGroup_of_full hfull⟩

theorem groupChange_requestAfterAbandon (g : GroupId) (s : State) : GroupChange g s (requestAfterAbandon g s) := by
  unfold requestAfterAbandon
  split
  · exact groupChange_requestGroup g s
  · exact .refl g s

theorem refired_line (s : State) (n : LineId) (w : Tag) : Refired s (levelTest n s) (.line n) w := by
  cases hf : firesAgain s (.line n) with
  | false =>
    rw [levelTest_of_not_fires hf]
    refine ⟨rfl, fun _ => rfl, fun _ => ⟨rfl, rfl, rfl⟩, ?_, nofun⟩
    rintro m ⟨⟩
    exact ⟨fun _ _ => rfl, fun hfires => absurd (hf.symm.trans hfires) nofun⟩
  | true =>
    have hnot : ¬ ((∀ m, Origin.line n ≠ .line m) ∨ firesAgain s (.line n) = false) := by
      rintro (h | h)
      · exact h n rfl
      · exact absurd (hf.symm.trans h) nofun
    have hfires : (s.line n).desc.enabled = true ∧ s.stands n = true := by
      rw [firesAgain_line] at hf
      simpa using hf
    cases hgroup : (s.line n).desc.group with
    | none =>
      have hchange := sourceChange_levelTest s hgroup
      refine ⟨hchange.posted, fun h => absurd h hnot, fun h => absurd (hf.symm.trans h.2) nofun, ?_, nofun⟩
      rintro m ⟨⟩
      exact ⟨hchange.lines, fun _ => ⟨fun _ => ⟨levelFired_levelTest w hfires.1 hfires.2 hgroup, hchange.groups⟩,
        fun k hk => absurd (hgroup.symm.trans hk) nofun⟩⟩
    | some k =>
      have hchange := groupChange_memberTrigger (s := s) n k
      have hmember := levelTest_of_member hfires.1 hfires.2 hgroup
      rw [← hmember] at hchange
      have hline : ∀ m, (levelTest n s).line m = s.line m := fun m => by rw [State.line, hchange.lines, State.line]
      refine ⟨hchange.posted, fun h => absurd h hnot, fun h => absurd (hf.symm.trans h.2) nofun, ?_, nofun⟩
      rintro m ⟨⟩
      refine ⟨fun m _ => hline m, fun _ => ⟨fun h => absurd (hgroup.symm.trans h) nofun, ?_⟩⟩
      intro k' hk'
      obtain rfl : k = k' := Option.some.inj (hgroup.symm.trans hk')
      exact ⟨hline n, hmember ▸ memberTriggered_memberTrigger s n k w, hchange.groups⟩

/-- R46 steps 3 and 4. -/
theorem refired_refireAfterAbandon (s : State) (o : Origin) (w : Tag) : Refired s (refireAfterAbandon o s) o w := by
  cases o with
  | posted n => exact ⟨rfl, fun _ => rfl, fun _ => ⟨rfl, rfl, rfl⟩, nofun, nofun⟩
  | group g =>
    have hchange := groupChange_requestAfterAbandon g s
    refine ⟨hchange.posted, fun _ => hchange.lines, fun h => absurd rfl (h.1 g), nofun, ?_⟩
    rintro k ⟨⟩
    exact ⟨hchange.groups, groupRequested_requestAfterAbandon s g w⟩
  | line n => exact refired_line s n w

/-! ### The courses of a return -/

theorem tagFreed_of_same {gone : Option HostId} (hstarve : SameStarvation s s') (hepoch : (s'.record u).epoch = (s.record u).epoch)
    (hlists : s'.lists = s.lists) (hposted : s'.postedSources = s.postedSources)
    (hgroups : ∀ g, s'.group g = s.group g) (hpresence : ∀ p, (s'.host p).presence = (s.host p).presence)
    (hkept : ∀ v, v ≠ u → keptFor s' gone v = keptFor s gone v)
    (ht : TagFreed s' t gone u c) : TagFreed s t gone u c := by
  obtain ⟨htag, hrecords, ⟨hlines, hposted'⟩, hgroup⟩ := ht
  exact ⟨htag.of_same hstarve hepoch hlists hpresence, fun v hv => (hrecords v hv).trans (hkept v hv),
    ⟨fun n => (hlines n).trans (hstarve.lineAfterFreeing n), hposted'.trans hposted⟩,
    fun g => (hgroup g).trans (hstarve.groupAfterFreeing (hgroups g) _)⟩

theorem setTimer_keeps (s : State) (u : Tag) (x : Timer) : SameStarvation s (s.setTimer u x) ∧
    ((s.setTimer u x).record u).epoch = (s.record u).epoch ∧ OtherRecordsKept u s (s.setTimer u x) ∧
    (s.setTimer u x).lists = s.lists ∧ (s.setTimer u x).postedSources = s.postedSources ∧
    (∀ g, (s.setTimer u x).group g = s.group g) ∧ ∀ p, (s.setTimer u x).host p = s.host p :=
  ⟨.of_tables rfl rfl, State.setTimer_epoch s u u x, fun _ hv => State.record_setRecord_ne s _ _ _ hv, rfl, rfl,
    fun _ => rfl, fun _ => rfl⟩

theorem tagFreed_withdrawn (hc : s.occ u = some c) (hclaimed : c.phase.isClaimed = true) :
    TagFreed s (freeRecord u (s.setTimer u .stopped)) none u c := by
  obtain ⟨hstarve, hepoch, hothers, hlists, hposted, hgroups, hhosts⟩ := setTimer_keeps s u .stopped
  have hc' : (s.setTimer u .stopped).occ u = some c := by simpa using hc
  exact tagFreed_of_same hstarve hepoch hlists hposted hgroups (fun p => congrArg HostContext.presence (hhosts p))
    hothers (tagFreed_freeRecord hc' hclaimed)

/-- A state with the same pool and tables freed a tag alike. -/
theorem tagFreed_to {gone : Option HostId} (hrecord : ∀ v, t'.record v = t.record v) (hlists : t'.lists = t.lists)
    (hlines : t'.lineSources = t.lineSources) (hposted : t'.postedSources = t.postedSources) (hgroups : t'.groups = t.groups)
    (ht : TagFreed s t gone u c) : TagFreed s t' gone u c := by
  have hlist : ∀ l, t'.list l = t.list l := fun l => by rw [State.list, hlists, State.list]
  have hline : ∀ n, t'.line n = t.line n := fun n => by rw [State.line, hlines, State.line]
  have hgroup : ∀ g, t'.group g = t.group g := fun g => by rw [State.group, hgroups, State.group]
  obtain ⟨⟨hfree, hfirst, hfirst'⟩, hrecords, ⟨hlines', hposted'⟩, hgroups'⟩ := ht
  refine ⟨⟨fun hnone => ?_, fun n hn => ?_, fun k hk => ?_⟩, fun v hv => (hrecord v).trans (hrecords v hv),
    ⟨fun n => (hline n).trans (hlines' n), hposted.trans hposted'⟩, fun g => (hgroup g).trans (hgroups' g)⟩
  · rw [hrecord, hlists]
    exact hfree hnone
  · simp only [GrantedTag, hrecord, hlist]
    exact hfirst n hn
  · simp only [GrantedTag, hrecord, hlist]
    exact hfirst' k hk

/-- R46: the tag is freed, the hosts are told, and the origin fires again. -/
theorem abandonedPool_abandon {c' : Occurrence} (hc : s.occ u = some c) (hclaimed : c.phase.isClaimed = true)
    (horigin : c'.origin = c.origin) : AbandonedPool s (abandon u c' (s.setTimer u .stopped)) none u c := by
  obtain ⟨x, hx⟩ := noticesOfAbandonment_eq c' (freeRecord u (s.setTimer u .stopped))
  have hstanding := noticesOfAbandonment_standing c' (freeRecord u (s.setTimer u .stopped))
  refine ⟨noticesOfAbandonment c' (freeRecord u (s.setTimer u .stopped)), ?_, fun g => ?_, fun w => ?_⟩
  · rw [hx]
    exact tagFreed_to (fun _ => rfl) rfl rfl rfl rfl (tagFreed_withdrawn hc hclaimed)
  · have hhosts := State.hosts_of_pool (freeRecord_besidePool (s.setTimer u .stopped) u)
    have hsame : (freeRecord u (s.setTimer u .stopped)).host g = s.host g := by rw [State.host, hhosts]; rfl
    rw [presence_of_standing (hstanding g), hsame]
  · rw [← horigin]
    exact refired_refireAfterAbandon _ _ w

end Sys2Proof.Machine
end

section
/-! The courses of a return that keep the record: merge-on-return and the way back to PENDING (R47 to R49). -/

namespace Sys2Proof.Machine

variable {s s' t t' : State} {u v : Tag} {c d : Occurrence} {h : HostId}

/-! ### What a returning record gives back to its group (R104) -/

theorem mergeBack_eq (c : Occurrence) (s : State) : ∃ x, mergeBack c s = { s with groups := x } := by
  unfold mergeBack
  split
  · exact ⟨_, rfl⟩
  · exact ⟨s.groups, rfl⟩

theorem mergeBack_group (c : Occurrence) (s : State) (g : GroupId) : (mergeBack c s).group g =
    if c.origin = .group g then
      { s.group g with collect := unionSources (s.group g).collect (s.liveMembers g c.phase.members) }
    else s.group g := by
  cases ho : c.origin with
  | line n => simp [mergeBack, ho]
  | posted n => simp [mergeBack, ho]
  | group k =>
    by_cases hg : k = g
    · subst hg
      simp [mergeBack, ho]
    · simp [mergeBack, ho, hg, Ne.symm hg]

theorem sameStarvation_mergeBack (c : Occurrence) (s : State) : SameStarvation s (mergeBack c s) := by
  obtain ⟨x, hx⟩ := mergeBack_eq c s
  refine ⟨fun n => by rw [hx]; rfl, fun g => ?_, fun g => ?_, fun g => ?_⟩ <;> rw [mergeBack_group] <;> split <;> rfl

theorem mem_unionSources {n : LineId} {a b : List LineId} : n ∈ unionSources a b ↔ n ∈ a ∨ n ∈ b := by
  rw [show unionSources a b = insertAll b a from rfl, mem_insertAll, or_comm]

theorem pendingTag_congr (hocc : ∀ v, s'.occ v = s.occ v) (o : Origin) : s'.pendingTag o = s.pendingTag o := by
  simp only [State.pendingTag, State.isLiveOf, State.isPendingTag, hocc]

/-! ### Merge-on-return (R48) -/

/-- The surviving record of a merge-on-return. -/
def survivor (terms : Terms) (r : Record) (c d : Occurrence) : Record :=
  let union := enlarge terms.route d.exclusion c.exclusion
  let opens := d.phase = .pendingExcl ∧ terms.preferred.any (fun p => hasHost union p) = true
  { r with
    timer := if opens then .stopped else r.timer
    occ := some { d with
      merge := saturate Config.countMax d.merge (c.merge + 1), reoffer := max d.reoffer c.reoffer, exclusion := union
      phase := if opens then .pendingOpen else d.phase } }

theorem State.setRecord_setRecord (s : State) (u : Tag) (x y : Record) : (s.setRecord u x).setRecord u y = s.setRecord u y := by
  simp [State.setRecord, Table.put]

theorem mergeReturn_eq (hd : s.occ v = some d) :
    mergeReturn v c s = s.setRecord v (survivor (s.termsOf c.origin) (s.record v) c d) := by
  have hterms : ∀ x, (s.setOcc v x).termsOf c.origin = s.termsOf c.origin := fun x => by cases c.origin <;> rfl
  simp only [mergeReturn, hd, hterms]
  unfold survivor
  cases hp : (s.termsOf c.origin).preferred with
  | none => simp [State.setOcc]
  | some p =>
    by_cases hin : hasHost (enlarge (s.termsOf c.origin).route d.exclusion c.exclusion) p = true
    · cases d.phase <;> simp [hin, openRecord, State.setOcc, State.setRecord_setRecord]
    · simp [hin, State.setOcc]

theorem mergedRecord_eq (s : State) (h : HostId) (terms : Terms) (v : Tag) (c d : Occurrence) :
    mergedRecord s none h terms v c d = survivor terms (s.record v) (returnedFields terms h c) d := by
  unfold mergedRecord survivor
  rw [enlarge_eq]
  simp [saturate, Config.countMax]

/-! ### The state at the freeing, or at the way back -/

/-- A return has stopped the lease and given back the snapshot of a group. -/
def givenBack (u : Tag) (h : HostId) (c : Occurrence) (s : State) : State :=
  mergeBack (returning (s.termsOf c.origin) h c) (s.setTimer u .stopped)

theorem givenBack_keeps (s : State) (u : Tag) (h : HostId) (c : Occurrence) : SameStarvation s (givenBack u h c s) ∧
    ((givenBack u h c s).record u).epoch = (s.record u).epoch ∧ OtherRecordsKept u s (givenBack u h c s) ∧
    (givenBack u h c s).lists = s.lists ∧ (givenBack u h c s).postedSources = s.postedSources ∧
    (givenBack u h c s).hosts = s.hosts ∧ ∀ v, (givenBack u h c s).occ v = s.occ v := by
  obtain ⟨hstarve, hepoch, hothers, hlists, hposted, -, -⟩ := setTimer_keeps s u .stopped
  have hstarve' := sameStarvation_mergeBack (returning (s.termsOf c.origin) h c) (s.setTimer u .stopped)
  obtain ⟨x, hx⟩ := mergeBack_eq (returning (s.termsOf c.origin) h c) (s.setTimer u .stopped)
  have hocc := fun v => mergeBack_occ (s.setTimer u .stopped) (returning (s.termsOf c.origin) h c) v
  unfold givenBack
  refine ⟨hstarve.trans hstarve', ?_, fun v hv => ?_, ?_, ?_, ?_, fun v => (hocc v).trans (State.occ_setTimer s u v .stopped)⟩
  all_goals rw [hx]
  · exact hepoch
  · exact hothers v hv
  · exact hlists
  · exact hposted
  · rfl

theorem givenBack_group (s : State) (u : Tag) (h : HostId) (c : Occurrence) (g : GroupId) : (givenBack u h c s).group g =
    if c.origin = .group g then
      { s.group g with collect := unionSources (s.group g).collect (s.liveMembers g c.phase.members) }
    else s.group g :=
  mergeBack_group _ _ g

theorem termsOf_givenBack (s : State) (u : Tag) (h : HostId) (c : Occurrence) (o : Origin) :
    (givenBack u h c s).termsOf o = s.termsOf o := by
  obtain ⟨hstarve, -, -, -, hposted, -, -⟩ := givenBack_keeps s u h c
  cases o with
  | line n => exact congrArg (fun x => x.desc.terms) (hstarve.line n)
  | group g => exact congrArg (fun x => x.terms) (hstarve.desc g)
  | posted n => exact congrArg (fun x => (Table.look x n).desc.terms) hposted

/-- The two courses of a record that is kept (R48, R49). -/
theorem returnRecord_kept (hc : s.occ u = some c) (hclaimed : c.phase.isClaimed = true)
    (henabled : s.enabledOf c.origin = true) (hlimit : c.reoffer + 1 ≤ (s.termsOf c.origin).reofferLimit.val) :
    (∀ v, s.pendingTag c.origin = some v → returnRecord u h s =
      (freeRecord u (mergeReturn v (returnedFields (s.termsOf c.origin) h c) (givenBack u h c s)), .merged v)) ∧
    (s.pendingTag c.origin = none → returnRecord u h s =
      (enterPending u (absorbStarved (returnedFields (s.termsOf c.origin) h c) (givenBack u h c s)).1
        (absorbStarved (returnedFields (s.termsOf c.origin) h c) (givenBack u h c s)).2, .pending)) := by
  have hkept : returnRecord u h s = returnKept u (returning (s.termsOf c.origin) h c) (s.setTimer u .stopped) := by
    obtain ⟨hoff, -⟩ | ⟨-, hover, -⟩ | ⟨-, -, hr⟩ := returnRecord_cases s u h c hc hclaimed
    · exact absurd (hoff.symm.trans henabled) nofun
    · omega
    · exact hr
  have htag : (givenBack u h c s).pendingTag c.origin = s.pendingTag c.origin :=
    pendingTag_congr (givenBack_keeps s u h c).2.2.2.2.2.2 _
  have horigin : (returnedFields (s.termsOf c.origin) h c).origin = c.origin := rfl
  rw [hkept, returnKept, againMerged_returning]
  refine ⟨fun v hv => ?_, fun hnone => ?_⟩
  · rw [← givenBack, horigin, htag, hv]
  · rw [← givenBack, horigin, htag, hnone]

/-! ### The merged course -/

theorem ne_of_pending_of_claimed (hc : s.occ u = some c) (hclaimed : c.phase.isClaimed = true) (hd : s.occ v = some d)
    (hpending : d.phase.isPending = true) : v ≠ u := by
  rintro rfl
  obtain rfl := Option.some.inj (hc.symm.trans hd)
  simp [Phase.isClaimed, hpending] at hclaimed

/-- R48: the record merges, and its tag is freed. -/
theorem merged_returnRecord (hc : s.occ u = some c) (hclaimed : c.phase.isClaimed = true)
    (henabled : s.enabledOf c.origin = true) (hlimit : c.reoffer + 1 ≤ (s.termsOf c.origin).reofferLimit.val)
    (hd : s.occ v = some d) (honly : OnlyPending s c.origin v d) :
    (returnRecord u h s).2 = .merged v ∧ (returnRecord u h s).1.hosts = s.hosts ∧
      TagAfterFreeing s (returnRecord u h s).1 none u ∧
      (returnRecord u h s).1.record v = mergedRecord s none h (s.termsOf c.origin) v c d ∧
      (∀ w, w ≠ u → w ≠ v → (returnRecord u h s).1.record w = s.record w) ∧ SourcesAfterFreeing s (returnRecord u h s).1 ∧
      ∀ g, c.origin ≠ .group g → (returnRecord u h s).1.group g = groupAfterFreeing s u c.origin g := by
  have htag : s.pendingTag c.origin = some v := State.pendingTag_of_onlyPending hd honly
  have hne : v ≠ u := ne_of_pending_of_claimed hc hclaimed hd honly.2.1
  obtain ⟨hstarve, hepoch, hothers, hlists, hposted, hhosts, hocc⟩ := givenBack_keeps s u h c
  have hgroup := givenBack_group s u h c
  have hterms := termsOf_givenBack s u h c
  rw [(returnRecord_kept hc hclaimed henabled hlimit).1 v htag]
  obtain ⟨k, hk⟩ : ∃ k, k = givenBack u h c s := ⟨_, rfl⟩
  rw [← hk] at hstarve hepoch hothers hlists hposted hhosts hocc hgroup hterms ⊢
  have hmerge : mergeReturn v (returnedFields (s.termsOf c.origin) h c) k =
      k.setRecord v (mergedRecord s none h (s.termsOf c.origin) v c d) := by
    rw [mergeReturn_eq ((hocc v).trans hd), hterms, hothers v hne, mergedRecord_eq]
    rfl
  obtain ⟨m, hm⟩ : ∃ m, m = k.setRecord v (mergedRecord s none h (s.termsOf c.origin) v c d) := ⟨_, rfl⟩
  rw [hmerge, ← hm]
  have hcm : m.occ u = some c := by rw [hm, State.occ_setRecord_ne _ _ _ _ hne.symm, hocc, hc]
  have hstarve' : SameStarvation s m := hstarve.trans (hm ▸ .of_tables rfl rfl)
  have hpresence : ∀ p, (m.host p).presence = (s.host p).presence := fun p => by
    rw [hm, State.host_setRecord, State.host, hhosts, State.host]
  obtain ⟨hfreed, hrecords, ⟨hlines, hposted'⟩, hgroups⟩ := tagFreed_freeRecord hcm hclaimed
  have hepoch' : (m.record u).epoch = (s.record u).epoch := by rw [hm, State.record_setRecord_ne _ _ _ _ hne.symm, hepoch]
  refine ⟨rfl, ?_, hfreed.of_same hstarve' hepoch' (by rw [hm]; exact hlists) hpresence, ?_, fun w hw hwv => ?_,
    ⟨fun n => (hlines n).trans (hstarve'.lineAfterFreeing n), hposted'.trans (by rw [hm]; exact hposted)⟩, fun g hg => ?_⟩
  · exact (State.hosts_of_pool (freeRecord_besidePool m u)).trans (by rw [hm]; exact hhosts)
  · exact (hrecords v hne).trans (by rw [keptFor, hm, State.record_setRecord_same])
  · refine (hrecords w hw).trans ?_
    rw [keptFor, hm, State.record_setRecord_ne _ _ _ _ hwv]
    exact hothers w hw
  · refine (hgroups g).trans (hstarve'.groupAfterFreeing ?_ _)
    rw [hm, State.group_setRecord, hgroup, if_neg hg]

/-! ### The way back to PENDING (R49) -/

theorem State.setLine_self (s : State) (n : LineId) : s.setLine n (s.line n) = s := by
  rw [State.setLine, State.line, Table.put_look]

/-- The mark of the returning record's source is cleared (R24). -/
def markCleared (o : Origin) (s : State) : State :=
  match o with
  | .line n => setLineStarved n none s
  | _ => s

theorem absorbStarved_returned (s : State) (u : Tag) (h : HostId) (c : Occurrence) :
    absorbStarved (returnedFields (s.termsOf c.origin) h c) (givenBack u h c s) =
      (comesBack s h c, markCleared c.origin (givenBack u h c s)) := by
  have hline := (givenBack_keeps s u h c).1.line
  obtain ⟨k, hk⟩ : ∃ k, k = givenBack u h c s := ⟨_, rfl⟩
  rw [← hk] at hline ⊢
  have horigin : (returnedFields (s.termsOf c.origin) h c).origin = c.origin := rfl
  unfold absorbStarved comesBack markCleared
  rw [horigin]
  cases ho : c.origin with
  | group g => rfl
  | posted n => rfl
  | line n =>
    cases hstarved : (s.line n).starved with
    | some j =>
      have horigin' : (returnedFields (s.termsOf (.line n)) h c).origin = .line n := ho
      simp only [hline, hstarved, horigin', saturate, Config.countMax]
    | none =>
      have hself : setLineStarved n none k = k := by
        have hx : { k.line n with starved := none } = k.line n := by
          rw [← hstarved, ← hline]
        rw [setLineStarved, hx, State.setLine_self]
      simp only [hline, hstarved, hself]

theorem comesBack_eq (s : State) (h : HostId) (c : Occurrence) :
    ∃ m, comesBack s h c = { returnedFields (s.termsOf c.origin) h c with merge := m } := by
  unfold comesBack
  dsimp only
  split
  · split
    · exact ⟨_, rfl⟩
    · exact ⟨_, rfl⟩
  · exact ⟨_, rfl⟩

theorem comesBack_fields (s : State) (h : HostId) (c : Occurrence) : (comesBack s h c).origin = c.origin ∧
    (comesBack s h c).level = c.level ∧ (comesBack s h c).reoffer = c.reoffer + 1 ∧
    (comesBack s h c).exclusion = excludedAfter (s.termsOf c.origin).route (c.exclusion ||| hostBit h) := by
  obtain ⟨m, hm⟩ := comesBack_eq s h c
  rw [hm]
  exact ⟨rfl, rfl, rfl, rfl⟩

theorem markCleared_line (o : Origin) (s : State) (n : LineId) : (markCleared o s).line n =
    if o = .line n then { s.line n with starved := none } else s.line n := by
  cases o with
  | group g => rfl
  | posted k => rfl
  | line m =>
    by_cases hm : m = n
    · subst hm
      simp [markCleared, setLineStarved]
    · simp [markCleared, setLineStarved, hm, Ne.symm hm]

theorem markCleared_keeps (o : Origin) (s : State) : (markCleared o s).records = s.records ∧
    (markCleared o s).lists = s.lists ∧ (markCleared o s).hosts = s.hosts ∧ (markCleared o s).groups = s.groups ∧
    (markCleared o s).postedSources = s.postedSources ∧ (markCleared o s).descs = s.descs := by
  cases o with
  | line n => exact ⟨rfl, rfl, rfl, rfl, rfl, descs_setLineStarved s n none⟩
  | group g => exact ⟨rfl, rfl, rfl, rfl, rfl, rfl⟩
  | posted n => exact ⟨rfl, rfl, rfl, rfl, rfl, rfl⟩

/-- R49: the record comes back to PENDING. -/
theorem pending_returnRecord (hc : s.occ u = some c) (hclaimed : c.phase.isClaimed = true)
    (henabled : s.enabledOf c.origin = true) (hlimit : c.reoffer + 1 ≤ (s.termsOf c.origin).reofferLimit.val)
    (hnone : NoPendingRecord s c.origin) :
    (returnRecord u h s).2 = .pending ∧ (returnRecord u h s).1.hosts = s.hosts ∧
      EntersPending s (returnRecord u h s).1 u (s.termsOf c.origin) (comesBack s h c) ∧
      TablesAfterReturn s (returnRecord u h s).1 c := by
  obtain ⟨hstarve, hepoch, hothers, hlists, hposted, hhosts, hocc⟩ := givenBack_keeps s u h c
  have hgroup := givenBack_group s u h c
  have hterms := termsOf_givenBack s u h c
  rw [(returnRecord_kept hc hclaimed henabled hlimit).2 ((State.pendingTag_eq_none_iff s _).mpr hnone), absorbStarved_returned]
  dsimp only
  obtain ⟨k, hk⟩ : ∃ k, k = givenBack u h c s := ⟨_, rfl⟩
  rw [← hk] at hstarve hepoch hothers hlists hposted hhosts hocc hgroup hterms ⊢
  obtain ⟨hrecords', hlists', hhosts', hgroups', hposted', hdescs'⟩ := markCleared_keeps c.origin k
  have hlines' := markCleared_line c.origin k
  obtain ⟨m, hm⟩ : ∃ m, m = markCleared c.origin k := ⟨_, rfl⟩
  rw [← hm] at hrecords' hlists' hhosts' hgroups' hposted' hdescs' hlines' ⊢
  obtain ⟨horigin, hlevel, -, -⟩ := comesBack_fields s h c
  have hrecord : ∀ v, m.record v = k.record v := fun v => by rw [State.record, hrecords', State.record]
  have hlist : ∀ l, m.list l = s.list l := fun l => by rw [State.list, hlists', hlists, State.list]
  have hpresence : ∀ p, (m.host p).presence = (s.host p).presence := fun p => by
    rw [State.host, hhosts', hhosts, State.host]
  have hmterms : m.termsOf c.origin = s.termsOf c.origin := (State.termsOf_of_descs hdescs' _).trans (hterms _)
  have hmgroup : ∀ g, m.group g = k.group g := fun g => by rw [State.group, hgroups', State.group]
  obtain ⟨hentered, hjoined, hkept, hrecords⟩ := entersPending_enterPending m u (comesBack s h c)
  refine ⟨rfl, hhosts'.trans hhosts, ⟨?_, ?_, fun l hl => (hkept l hl).trans (hlist l), fun v hv => ?_⟩, fun n => ?_,
    hposted'.trans hposted, fun g hg => ?_, fun g hg => ⟨?_, fun n => ?_⟩⟩
  · rw [horigin, hmterms, hrecord, hepoch] at hentered
    simpa only [EnteredRecord, windowHolds_congr hpresence] using hentered
  · rw [hjoined, hlist]
  · rw [hrecords v hv, hrecord, hothers v hv]
  · rw [line_enterPending, hlines', hstarve.line]
  · rw [group_enterPending, hmgroup, hgroup, if_neg hg]
  · rw [group_enterPending, hmgroup, hgroup, if_pos hg]
  · rw [group_enterPending, hmgroup, hgroup, if_pos hg, mem_unionSources, State.liveMembers, List.mem_filter,
      Bool.and_eq_true, decide_eq_true_eq]

/-! ### The return procedure -/

/-- R45 to R49: the course of a return, in the terms of the statements. -/
theorem returnCourse_returnRecord (hc : s.occ u = some c) (hclaimed : c.phase.isClaimed = true) :
    ReturnCourse s (returnRecord u h s).1 h none u c := by
  refine ⟨fun hoff => ?_, fun hon hover _ => ?_, fun hon hlimit v d hd honly => ?_, fun hon hlimit hnone => ?_⟩
  · obtain ⟨-, hr⟩ | ⟨hon, -⟩ | ⟨hon, -⟩ := returnRecord_cases s u h c hc hclaimed
    · rw [hr]
      exact tagFreed_withdrawn hc hclaimed
    · exact absurd (hoff.symm.trans hon) nofun
    · exact absurd (hoff.symm.trans hon) nofun
  · obtain ⟨hoff, -⟩ | ⟨-, -, hr⟩ | ⟨-, hlimit, -⟩ := returnRecord_cases s u h c hc hclaimed
    · exact absurd (hoff.symm.trans hon) nofun
    · rw [hr]
      exact abandonedPool_abandon hc hclaimed rfl
    · omega
  · obtain ⟨-, -, htag, hrecord, hothers, hsources, hgroups⟩ := merged_returnRecord (h := h) hc hclaimed hon hlimit hd honly
    exact ⟨htag, hrecord, hothers, hsources, hgroups⟩
  · obtain ⟨-, -, ⟨hentered, hjoined, hlists, hothers⟩, htables⟩ :=
      pending_returnRecord (h := h) hc hclaimed hon hlimit hnone
    have hlevel := (comesBack_fields s h c).2.1
    rw [hlevel] at hjoined hlists
    exact ⟨returnedRecord_none_iff.mpr hentered, hothers, hjoined, hlists, htables⟩

end Sys2Proof.Machine
end

section
/-! What a return leaves alone: epochs, the other holders, the Host Contexts but for the notices of an abandonment;
and what the statements read of a state beside its hosts, ports, session and ATTN. -/

namespace Sys2Proof.Machine

variable {s s' t t' : State} {u v : Tag} {c d : Occurrence} {h : HostId}

/-! ### Epochs -/

/-- Every record has the epoch that `e` names. -/
def EpochsAre (e : Tag → Byte) (s : State) : Prop := ∀ v, (s.record v).epoch = e v

theorem EpochsAre.setRecord {e : Tag → Byte} {r : Record} (hs : EpochsAre e s) (hr : r.epoch = (s.record u).epoch) :
    EpochsAre e (s.setRecord u r) := fun v => by
  by_cases hv : v = u
  · subst hv
    rw [State.record_setRecord_same, hr, hs]
  · rw [State.record_setRecord_ne _ _ _ _ hv, hs]

theorem EpochsAre.enterPending {e : Tag → Byte} (hs : EpochsAre e s) (u : Tag) (d : Occurrence) :
    EpochsAre e (enterPending u d s) := fun v => by
  obtain ⟨hentered, -, -, hothers⟩ := entersPending_enterPending s u d
  by_cases hv : v = u
  · subst hv
    obtain ⟨-, hr⟩ | ⟨-, hr⟩ := hentered <;> rw [hr] <;> exact hs v
  · rw [hothers v hv, hs]

theorem EpochsAre.createRecord {e : Tag → Byte} (hs : EpochsAre e s) (u : Tag) (o : Origin) (m : Nat)
    (p : Option PostedFields) (x : HostSet) : EpochsAre e (createRecord u o m p x s) := fun v => by
  obtain ⟨hentered, -, -, hothers⟩ := entersPending_createRecord s u o m p x
  by_cases hv : v = u
  · subst hv
    obtain ⟨-, hr⟩ | ⟨-, hr⟩ := hentered <;> rw [hr] <;> exact hs v
  · rw [hothers v hv, hs]

theorem poolClosed_epochs (e : Tag → Byte) : PoolClosed (EpochsAre e) where
  create o m p x _ hs := hs.createRecord _ o m p x
  merge k _ hs := by
    unfold mergeInto
    split
    · exact hs.setRecord rfl
    · exact hs
  again hs := by
    unfold setAgain
    split
    · exact hs.setRecord rfl
    · exact hs
  group _ _ _ hs := hs
  mark _ _ hs := hs

theorem EpochsAre.openRecord {e : Tag → Byte} (hs : EpochsAre e s) (u : Tag) : EpochsAre e (openRecord u s) := by
  unfold Machine.openRecord
  split
  · split
    · exact hs.setRecord rfl
    · exact hs
  · exact hs

theorem EpochsAre.freeRecord {e : Tag → Byte} (hs : EpochsAre e s) (hc : s.occ u = some c) : EpochsAre e (freeRecord u s) := by
  rw [freeRecord_eq s u c hc]
  refine (poolClosed_epochs e).grantCheck (fun v => ?_) (vacate_occ_same s u c)
  by_cases hv : v = u
  · subst hv
    rw [vacate_record_same]
    exact hs v
  · rw [vacate_record_ne s u v c hv]
    exact hs v

theorem returnClosed_epochs (u : Tag) (e : Tag → Byte) : ReturnClosed u (EpochsAre e) (EpochsAre e) where
  pool := poolClosed_epochs e
  notice {s} h n hs := by
    obtain ⟨x, hx⟩ := place_eq h n s
    rw [hx]
    exact hs
  timer _ hs := hs.setRecord rfl
  group _ _ _ hs := hs
  mark _ hs := hs
  merge _ _ _ _ _ _ hs := hs.setRecord rfl
  opens _ hs := hs.openRecord _
  free hc _ hs := hs.freeRecord hc
  enter _ _ _ _ hs := hs.enterPending _ _

/-- A return keeps every epoch. -/
theorem returnRecord_epoch (s : State) (u v : Tag) (h : HostId) :
    ((returnRecord u h s).1.record v).epoch = (s.record v).epoch :=
  (returnClosed_epochs u _).returnRecord_any (fun _ => rfl) h v

/-! ### Holders -/

/-- The records beside `u` have the holders that `k` names, and `u` has none. -/
def HoldersBut (u : Tag) (k : Tag → Option (HostId × Level)) (s : State) : Prop :=
  ∀ v, s.holding v = if v = u then none else k v

theorem poolClosed_holders (u : Tag) (holder : Tag → Option (HostId × Level)) : PoolClosed (HoldersBut u holder) where
  create {s w} o m p e hfree hs v := by
    rw [holding_createRecord]
    split
    · next hv =>
      have hnone := holding_of_free hfree
      rw [← hv, hs v] at hnone
      exact hnone.symm
    · exact hs v
  merge k _ hs v := by
    unfold mergeInto
    split
    case h_1 c hc => exact (holding_setOcc (d := { c with merge := saturate Config.countMax c.merge k }) hc rfl rfl v).trans (hs v)
    case h_2 => exact hs v
  again hs v := by
    unfold setAgain
    split
    case h_1 c hc => exact (holding_setOcc (d := { c with again := true }) hc rfl rfl v).trans (hs v)
    case h_2 => exact hs v
  group _ _ _ hs := hs
  mark _ _ hs := hs

/-- A return takes its record from its holder and leaves every other record with its own. -/
theorem returnClosed_holders (u : Tag) (k : Tag → Option (HostId × Level)) :
    ReturnClosed u (fun s => ∀ v, v ≠ u → s.holding v = k v) (HoldersBut u k) where
  pool := poolClosed_holders u k
  notice {s} h n hs v := by
    obtain ⟨x, hx⟩ := place_eq h n s
    rw [hx]
    exact hs v
  timer x hs v hv := (holding_congr (by simp)).trans (hs v hv)
  group _ _ _ hs := hs
  mark _ hs := hs
  merge {s w d} m k e _ hd _ hs v hv :=
    (holding_setOcc (d := { d with merge := m, reoffer := k, exclusion := e }) hd rfl rfl v).trans (hs v hv)
  opens _ hs v hv := (holding_openRecord v).trans (hs v hv)
  free {s c} hc _ hs := by
    rw [freeRecord_eq s u c hc]
    refine (poolClosed_holders u k).grantCheck (fun v => ?_) (vacate_occ_same s u c)
    split
    · next hv => rw [hv, holding_of_free (vacate_occ_same s u c)]
    · next hv => rw [holding_congr (vacate_occ_ne s u v c hv), hs v hv]
  enter _ _ _ _ hs v := by
    rw [holding_enterPending]
    split
    · rfl
    · next hv => exact hs v hv

theorem holding_returnRecord (hc : s.occ u = some c) (hclaimed : c.phase.isClaimed = true) (h : HostId) (v : Tag) :
    (returnRecord u h s).1.holding v = if v = u then none else s.holding v :=
  (returnClosed_holders u s.holding).returnRecord (fun _ _ => rfl) hc hclaimed h v

theorem any_isClaimed_of_holding (hu : s.holding u = none) : (s.occ u).any (fun d => d.phase.isClaimed) = false := by
  cases hd : s.occ u with
  | none => rfl
  | some d =>
    rw [holding_of_occ hd] at hu
    cases hp : d.phase <;> simp_all [Occurrence.holding, Phase.isClaimed, Phase.isPending]

/-! ### Notices to several hosts -/

theorem place_host (s : State) (h g : HostId) (n : Notice) : (place h n s).host g =
    if g = h ∧ (s.host g).presence.takesNotices = true then (s.host g).enqueue n else s.host g := by
  obtain ⟨htakes, he⟩ | ⟨htakes, he⟩ := place_cases s h n <;> rw [he]
  · by_cases hg : g = h
    · subst hg
      rw [State.host_setHost_same, if_pos ⟨rfl, htakes⟩]
    · rw [State.host_setHost_ne _ _ _ _ hg, if_neg fun h => hg h.1]
  · rw [if_neg]
    rintro ⟨rfl, h⟩
    exact absurd (htakes.symm.trans h) nofun

theorem foldl_place_host (who : HostId → Bool) (n : Notice) (g : HostId) : ∀ (l : List HostId) (s : State), l.Nodup →
    (l.foldl (fun s h => if who h then place h n s else s) s).host g =
      if g ∈ l ∧ who g = true ∧ (s.host g).presence.takesNotices = true then (s.host g).enqueue n else s.host g := by
  intro l
  induction l with
  | nil => exact fun s _ => by simp
  | cons k l ih =>
    intro s hl
    obtain ⟨hk, hl⟩ := List.nodup_cons.mp hl
    have hstep : (if who k then place k n s else s).host g =
        if g = k ∧ who g = true ∧ (s.host g).presence.takesNotices = true then (s.host g).enqueue n else s.host g := by
      by_cases hgk : g = k
      · subst hgk
        by_cases hwho : who g = true
        · simp [hwho, place_host]
        · simp [hwho]
      · split <;> simp [place_host, hgk]
    rw [List.foldl_cons, ih _ hl, hstep]
    by_cases hgk : g = k
    · subst hgk
      simp [hk]
    · simp [hgk]

theorem placeAll_host (s : State) (who : HostId → Bool) (n : Notice) (g : HostId) : (placeAll who n s).host g =
    if who g = true ∧ (s.host g).presence.takesNotices = true then (s.host g).enqueue n else s.host g := by
  rw [placeAll, foldl_place_host who n g hostIds s (List.nodup_finRange 4)]
  simp [hostIds]

theorem takesNotices_iff {p : Presence} : p.takesNotices = true ↔ p = .present ∨ p = .draining := by
  cases p <;> simp [Presence.takesNotices]

/-- The hosts after the notices of an abandonment (R46 steps 1 and 2). -/
theorem noticesOfAbandonment_host (s : State) (c : Occurrence) (g : HostId) :
    (noticesOfAbandonment c s).host g = toldOfAbandonment s c g (s.host g) := by
  have hfirst : (noticeAbandoned c s).host g =
      if (s.host g).presence = .present ∧ hasHost (s.termsOf c.origin).route g = true then
        told (s.host g) (.abandoned c.origin c.seq c.level) else s.host g := by
    rw [noticeAbandoned, placeAll_host]
    refine if_congr ?_ rfl rfl
    simp only [Bool.and_eq_true, decide_eq_true_eq]
    exact ⟨fun h => h.1, fun h => ⟨h, by rw [h.1]; rfl⟩⟩
  unfold noticesOfAbandonment noticePostedAbandoned toldOfAbandonment
  rw [← hfirst]
  obtain ⟨origin, seq, level, merge, again, posted, exclusion, reoffer, phase⟩ := c
  cases origin with
  | line n => rfl
  | group k => rfl
  | posted n =>
    cases posted with
    | none => rfl
    | some p =>
      dsimp only
      cases hnotify : p.notify with
      | false => simp
      | true =>
        rw [if_pos rfl, place_host]
        refine if_congr ?_ rfl rfl
        rw [takesNotices_iff]
        exact ⟨fun h => ⟨rfl, h.1.symm, h.2⟩, fun h => ⟨h.2.1.symm, h.2.2⟩⟩

/-! ### The Host Contexts after a return -/

theorem hosts_refireAfterAbandon (o : Origin) (s : State) : (refireAfterAbandon o s).hosts = s.hosts :=
  State.hosts_of_pool <| (poolClosed_of_hosts (P := fun t => t.besidePool = s.besidePool)
    fun _ _ hb hs => hb.trans hs).refireAfterAbandon rfl o

/-- R46: an abandonment tells the hosts, and changes no Host Context besides. -/
theorem abandoned_returnRecord_host (hc : s.occ u = some c) (hclaimed : c.phase.isClaimed = true)
    (henabled : s.enabledOf c.origin = true) (hover : (s.termsOf c.origin).reofferLimit.val < c.reoffer + 1) :
    (returnRecord u h s).2 = .abandoned ∧
      ∀ g, (returnRecord u h s).1.host g = toldOfAbandonment s c g (s.host g) := by
  obtain ⟨hoff, -⟩ | ⟨-, -, hr⟩ | ⟨-, hlimit, -⟩ := returnRecord_cases s u h c hc hclaimed
  · exact absurd (hoff.symm.trans henabled) nofun
  · rw [hr]
    refine ⟨rfl, fun g => ?_⟩
    have hhosts := State.hosts_of_pool (freeRecord_besidePool (s.setTimer u .stopped) u)
    have hterms : (freeRecord u (s.setTimer u .stopped)).termsOf c.origin = s.termsOf c.origin := by
      refine (State.termsOf_of_descs (descs_freeRecord (s.setTimer u .stopped) u) _).trans ?_
      cases c.origin <;> rfl
    obtain ⟨m, hm⟩ : ∃ m, m = freeRecord u (s.setTimer u .stopped) := ⟨_, rfl⟩
    rw [← hm] at hhosts hterms
    rw [abandon, ← hm, State.host, hosts_refireAfterAbandon]
    refine (noticesOfAbandonment_host m _ g).trans ?_
    have hg : m.host g = s.host g := by rw [State.host, hhosts]; rfl
    rw [hg]
    simp only [toldOfAbandonment, hterms]
  · omega

/-- R42: a withdrawal changes no Host Context. -/
theorem withdrawn_returnRecord (hc : s.occ u = some c) (hclaimed : c.phase.isClaimed = true)
    (hoff : s.enabledOf c.origin = false) :
    (returnRecord u h s).2 = .withdrawn ∧ (returnRecord u h s).1.hosts = s.hosts := by
  obtain ⟨-, hr⟩ | ⟨hon, -⟩ | ⟨hon, -⟩ := returnRecord_cases s u h c hc hclaimed
  · rw [hr]
    exact ⟨rfl, State.hosts_of_pool (freeRecord_besidePool (s.setTimer u .stopped) u)⟩
  · exact absurd (hoff.symm.trans hon) nofun
  · exact absurd (hoff.symm.trans hon) nofun

/-- R47: a return that keeps its record changes no Host Context. -/
theorem kept_returnRecord_hosts (hc : s.occ u = some c) (hclaimed : c.phase.isClaimed = true)
    (henabled : s.enabledOf c.origin = true) (hlimit : c.reoffer + 1 ≤ (s.termsOf c.origin).reofferLimit.val) :
    (returnRecord u h s).1.hosts = s.hosts := by
  obtain ⟨hoff, -⟩ | ⟨-, hover, -⟩ | ⟨-, -, hr⟩ := returnRecord_cases s u h c hc hclaimed
  · exact absurd (hoff.symm.trans henabled) nofun
  · omega
  · rw [hr]
    exact State.hosts_of_pool ((returnKept_besidePool (s.setTimer u .stopped) u _).trans (State.besidePool_setTimer s u .stopped))

/-! ### States that differ in hosts, ATTN, ports and session -/

/-- The two states have the same pool, tables, clocks, pins and Policy. -/
def SameCore (s s' : State) : Prop :=
  ∃ hosts attn ports session, s' = { s with hosts := hosts, attn := attn, ports := ports, session := session }

theorem SameCore.refl (s : State) : SameCore s s := ⟨s.hosts, s.attn, s.ports, s.session, rfl⟩

theorem SameCore.trans {s'' : State} (h : SameCore s s') (h' : SameCore s' s'') : SameCore s s'' := by
  obtain ⟨_, _, _, _, rfl⟩ := h
  obtain ⟨hosts, attn, ports, session, rfl⟩ := h'
  exact ⟨hosts, attn, ports, session, rfl⟩

theorem SameCore.board (h : SameCore s s') : SameBoard s s' ∧ s'.policy = s.policy := by
  obtain ⟨_, _, _, _, rfl⟩ := h
  exact ⟨⟨rfl, rfl, rfl, rfl, rfl, rfl, rfl⟩, rfl⟩

theorem SameCore.record (h : SameCore s s') (v : Tag) : s'.record v = s.record v := by
  obtain ⟨_, _, _, _, rfl⟩ := h
  rfl

theorem SameCore.holding (h : SameCore s s') (v : Tag) : s'.holding v = s.holding v := by
  obtain ⟨_, _, _, _, rfl⟩ := h
  rfl

theorem sameCore_setHost (s : State) (h : HostId) (x : HostContext) : SameCore s (s.setHost h x) := ⟨_, _, _, _, rfl⟩

theorem sameCore_settle (s : State) : SameCore s (settle s) := ⟨_, _, _, _, rfl⟩

theorem sameCore_setWork (s : State) (h : HostId) (w : PortWork) : SameCore s (setWork h w s) := ⟨_, _, _, _, rfl⟩

theorem sameCore_place (s : State) (h : HostId) (n : Notice) : SameCore s (place h n s) := by
  obtain ⟨x, hx⟩ := place_eq h n s
  exact ⟨x, _, _, _, hx⟩

theorem sameCore_placeAll (s : State) (who : HostId → Bool) (n : Notice) : SameCore s (placeAll who n s) := by
  obtain ⟨x, hx⟩ := placeAll_eq who n s
  exact ⟨x, _, _, _, hx⟩

theorem sameCore_dropSession (s : State) (h : HostId) : SameCore s (dropSession h s) :=
  ⟨_, _, _, _, dropSession_eq h s⟩

theorem SameCore.starvation (h : SameCore s s') : SameStarvation s s' := by
  obtain ⟨_, _, _, _, rfl⟩ := h
  exact .of_tables rfl rfl

/-- What becomes of a freed tag is told of a state with the same presences. -/
theorem SameCore.tagAfterFreeing (hsame : SameCore s s') (hpresence : ∀ p, (s'.host p).presence = (s.host p).presence)
    (ht : TagAfterFreeing s' t none u) : TagAfterFreeing s t none u := by
  obtain ⟨hosts, attn, ports, session, hs'⟩ := id hsame
  exact ht.of_same hsame.starvation (by rw [hs']; rfl) (by rw [hs']) hpresence

theorem SameCore.tagFreed (hsame : SameCore s s') (hpresence : ∀ p, (s'.host p).presence = (s.host p).presence)
    (ht : TagFreed s' t none u c) : TagFreed s t none u c := by
  obtain ⟨hosts, attn, ports, session, hs'⟩ := id hsame
  exact tagFreed_of_same hsame.starvation (by rw [hs']; rfl) (by rw [hs']) (by rw [hs']) (fun g => by rw [hs']; rfl) hpresence
    (fun v _ => by rw [hs']; rfl) ht

/-- The course of a return is told of a state with the same presences. -/
theorem SameCore.returnCourse (hsame : SameCore s s') (hpresence : ∀ p, (s'.host p).presence = (s.host p).presence)
    (hcourse : ReturnCourse s' t h none u c) : ReturnCourse s t h none u c := by
  have hfreed : ∀ m, TagFreed s' m none u c → TagFreed s m none u c := fun m => hsame.tagFreed hpresence
  have htag : TagAfterFreeing s' t none u → TagAfterFreeing s t none u := hsame.tagAfterFreeing hpresence
  have hrecord : ∀ epoch terms d r, ReturnedRecord s' none epoch terms d r → ReturnedRecord s none epoch terms d r :=
    fun epoch terms d r => (returnedRecord_congr hpresence).mp
  obtain ⟨hwithdrawn, habandoned, hmerged, hpending⟩ := hcourse
  obtain ⟨_, _, _, _, rfl⟩ := hsame
  refine ⟨fun hoff => hfreed t (hwithdrawn hoff), fun hon hover hgone => ?_, fun hon hlimit v d hd honly => ?_,
    fun hon hlimit hnone => ?_⟩
  · obtain ⟨m, hfreed', hkept, hrefired⟩ := habandoned hon hover (.inl rfl)
    exact ⟨m, hfreed m hfreed', fun g => (hkept g).trans (hpresence g), hrefired⟩
  · obtain ⟨htag', hrest⟩ := hmerged hon hlimit v d hd honly
    exact ⟨htag htag', hrest⟩
  · obtain ⟨hrecord', hrest⟩ := hpending hon hlimit hnone
    exact ⟨hrecord _ _ _ _ hrecord', hrest⟩

theorem ReturnCourse.to_sameCore {gone : Option HostId} (hsame : SameCore t t') (hcourse : ReturnCourse s t h gone u c) :
    ReturnCourse s t' h gone u c := by
  obtain ⟨_, _, _, _, rfl⟩ := hsame
  exact hcourse

end Sys2Proof.Machine
end

section
/-! HANDBACK: the record comes back, is withdrawn, abandoned or merged (section 5.6). -/

namespace Sys2Proof.Machine

variable {s s' t t' : State} {u v : Tag} {c d : Occurrence} {h : HostId} {rt : RequestTag} {tag epoch : Byte}

/-! ### The entry that leaves the stack -/

theorem removeEntry_host (s : State) (h : HostId) (u : Tag) (g : HostId) :
    (removeEntry h u s).host g = withoutEntry s h u g := by
  by_cases hg : g = h
  · subst hg
    simp [removeEntry, withoutEntry]
  · simp [removeEntry, withoutEntry, hg]

theorem withoutEntry_same (s : State) (h : HostId) (u : Tag) : withoutEntry s h u h =
    { s.host h with stack := (s.host h).stack.filter (fun e => decide (e.tag ≠ u)) } := if_pos rfl

theorem withoutEntry_ne {g : HostId} (hg : g ≠ h) : withoutEntry s h u g = s.host g := if_neg hg

theorem withoutEntry_presence (s : State) (h : HostId) (u : Tag) (g : HostId) :
    (withoutEntry s h u g).presence = (s.host g).presence := by
  unfold withoutEntry
  split <;> rfl

theorem sameCore_removeEntry (s : State) (h : HostId) (u : Tag) : SameCore s (removeEntry h u s) := sameCore_setHost _ _ _

theorem removeEntry_presence (s : State) (h : HostId) (u : Tag) (g : HostId) :
    ((removeEntry h u s).host g).presence = (s.host g).presence := by
  rw [removeEntry_host, withoutEntry_presence]

/-! ### The return to which a holder hands its record -/

/-- The entry of the record leaves the stack of its holder, and the record returns (R72, R89). -/
def handedBack (u : Tag) (h : HostId) (s : State) : State × ReturnOutcome := returnRecord u h (removeEntry h u s)

theorem returnCourse_handedBack (hc : s.occ u = some c) (hclaimed : c.phase.isClaimed = true) :
    ReturnCourse s (handedBack u h s).1 h none u c :=
  (sameCore_removeEntry s h u).returnCourse (removeEntry_presence s h u)
    (returnCourse_returnRecord (s := removeEntry h u s) hc hclaimed)

theorem handedBack_keeps (s : State) (u : Tag) (h : HostId) :
    (handedBack u h s).1.besideHosts = s.besideHosts ∧ (handedBack u h s).1.session = s.session ∧
      (∀ g, ((handedBack u h s).1.host g).standing = (withoutEntry s h u g).standing) ∧
      ∀ v, ((handedBack u h s).1.record v).epoch = (s.record v).epoch := by
  obtain ⟨hbeside, hsession, hstanding⟩ := returnRecord_keeps (removeEntry h u s) u h
  exact ⟨hbeside, hsession, fun g => (hstanding g).trans (congrArg _ (removeEntry_host s h u g)),
    fun v => returnRecord_epoch (removeEntry h u s) u v h⟩

theorem handedBack_unclaimed (hc : s.occ u = some c) (hclaimed : c.phase.isClaimed = true) :
    ((handedBack u h s).1.occ u).any (fun d => d.phase.isClaimed) = false :=
  any_isClaimed_of_holding ((holding_returnRecord (s := removeEntry h u s) hc hclaimed h u).trans (if_pos rfl))

/-- The hosts after the return: told of an abandonment, and kept in every other course. -/
theorem handedBack_host (hc : s.occ u = some c) (hclaimed : c.phase.isClaimed = true) :
    (s.enabledOf c.origin = false ∨ c.reoffer + 1 ≤ (s.termsOf c.origin).reofferLimit.val →
      ∀ g, (handedBack u h s).1.host g = withoutEntry s h u g) ∧
    (s.enabledOf c.origin = true → (s.termsOf c.origin).reofferLimit.val < c.reoffer + 1 →
      ∀ g, (handedBack u h s).1.host g = abandonedHost s h u c g) := by
  refine ⟨fun hkept g => ?_, fun hon hover g => ?_⟩
  · have hhosts : (handedBack u h s).1.hosts = (removeEntry h u s).hosts := by
      cases hon : s.enabledOf c.origin with
      | false => exact (withdrawn_returnRecord (s := removeEntry h u s) hc hclaimed hon).2
      | true => exact kept_returnRecord_hosts (s := removeEntry h u s) hc hclaimed hon (hkept.resolve_left (by simp [hon]))
    rw [State.host, hhosts]
    exact removeEntry_host s h u g
  · refine ((abandoned_returnRecord_host (s := removeEntry h u s) hc hclaimed hon hover).2 g).trans ?_
    rw [removeEntry_host]
    rfl

/-! ### The data of the reply -/

/-- The course as HANDBACK reports it (R89, R192). -/
theorem handbackData_handedBack (hc : s.occ u = some c) (hclaimed : c.phase.isClaimed = true) :
    (s.enabledOf c.origin = false →
      handbackData u (handedBack u h s).1 (handedBack u h s).2 = [3, byte u.val]) ∧
    (s.enabledOf c.origin = true → (s.termsOf c.origin).reofferLimit.val < c.reoffer + 1 →
      handbackData u (handedBack u h s).1 (handedBack u h s).2 = [2, byte u.val]) ∧
    (s.enabledOf c.origin = true → c.reoffer + 1 ≤ (s.termsOf c.origin).reofferLimit.val →
      (∀ v d, s.occ v = some d → OnlyPending s c.origin v d →
        handbackData u (handedBack u h s).1 (handedBack u h s).2 = [1, byte u.val, byte v.val]) ∧
      (NoPendingRecord s c.origin →
        handbackData u (handedBack u h s).1 (handedBack u h s).2 =
          [0, byte u.val,
            if WindowHolds s (s.termsOf c.origin)
              (excludedAfter (s.termsOf c.origin).route (c.exclusion ||| hostBit h)) then 1 else 2,
            byte (c.reoffer + 1)])) := by
  refine ⟨fun hoff => ?_, fun hon hover => ?_, fun hon hlimit => ⟨fun v d hd honly => ?_, fun hnone => ?_⟩⟩
  · rw [show (handedBack u h s).2 = .withdrawn from (withdrawn_returnRecord (s := removeEntry h u s) hc hclaimed hoff).1]
    rfl
  · rw [show (handedBack u h s).2 = .abandoned from
      (abandoned_returnRecord_host (s := removeEntry h u s) hc hclaimed hon hover).1]
    rfl
  · rw [show (handedBack u h s).2 = .merged v from
      (merged_returnRecord (s := removeEntry h u s) hc hclaimed hon hlimit hd honly).1]
    rfl
  · obtain ⟨houtcome, -, ⟨hentered, -⟩, -⟩ := pending_returnRecord (s := removeEntry h u s) (h := h) hc hclaimed hon hlimit hnone
    rw [show (handedBack u h s).2 = .pending from houtcome]
    rw [show returnRecord u h (removeEntry h u s) = handedBack u h s from rfl] at hentered
    obtain ⟨m, hm⟩ : ∃ m, m = (handedBack u h s).1 := ⟨_, rfl⟩
    rw [← hm] at hentered ⊢
    obtain ⟨-, -, hreoffer, hexclusion⟩ := comesBack_fields (removeEntry h u s) h c
    obtain ⟨k, hk⟩ : ∃ k, k = comesBack (removeEntry h u s) h c := ⟨_, rfl⟩
    rw [← hk] at hentered hreoffer hexclusion
    have hwindow := windowHolds_congr (removeEntry_presence s h u) (s.termsOf c.origin)
      (excludedAfter (s.termsOf c.origin).route (c.exclusion ||| hostBit h))
    have hexclusion' : k.exclusion = excludedAfter (s.termsOf c.origin).route (c.exclusion ||| hostBit h) := hexclusion
    rw [handbackData, State.stateCode, State.occ]
    obtain ⟨hholds, hr⟩ | ⟨hholds, hr⟩ := hentered <;> rw [hexclusion'] at hholds <;> rw [hr, ← hreoffer]
    · rw [if_pos (hwindow.mp hholds)]
      rfl
    · rw [if_neg fun h' => hholds (hwindow.mpr h')]
      rfl

/-! ### HANDBACK as a request -/

theorem standing_eq {x y : HostContext} (hxy : x.standing = y.standing) : x.presence = y.presence ∧ x.floor = y.floor ∧
    x.generation = y.generation ∧ x.strikes = y.strikes ∧ x.stack = y.stack := by
  simpa only [HostContext.standing, Prod.mk.injEq] using hxy

theorem drainCheck_of_joined (hjoined : StaysJoined s h u) (hpresence : (t.host h).presence = (s.host h).presence)
    (hstack : (t.host h).stack = (s.host h).stack.filter (fun e => decide (e.tag ≠ u))) : drainCheck h t = t := by
  refine if_neg ?_
  rintro ⟨hdraining, hempty⟩
  rcases hjoined with hpresent | ⟨-, e, he, hne⟩
  · exact absurd (hdraining.symm.trans (hpresence.trans hpresent)) nofun
  · have hmem : e ∈ (s.host h).stack.filter (fun e => decide (e.tag ≠ u)) := List.mem_filter.mpr ⟨he, decide_eq_true hne⟩
    rw [← hstack, hempty] at hmem
    cases hmem

theorem sameCore_drainCheck (s : State) (h : HostId) : SameCore s (drainCheck h s) := by
  unfold drainCheck
  split
  · exact (sameCore_setHost _ _ _).trans (sameCore_setHost _ _ _)
  · exact .refl s

theorem drainCheck_session (s : State) (h : HostId) : (drainCheck h s).session = s.session ∧ (drainCheck h s).ports = s.ports := by
  unfold drainCheck
  split <;> exact ⟨rfl, rfl⟩

theorem board_of_besideHosts (hb : t.besideHosts = s.besideHosts) :
    SameBoard s t ∧ t.policy = s.policy ∧ t.ports = s.ports := by
  simp only [State.besideHosts, Prod.mk.injEq] at hb
  obtain ⟨hrefclk, hdivider, hrstn, hpower, hraw, -, hpolicy, hports, hchoices, hpending⟩ := hb
  exact ⟨⟨hrefclk, hdivider, hrstn, hpower, hraw, hchoices, hpending⟩, hpolicy, hports⟩

/-- A request that leads to `m`, which differs from `s` in pool, tables and hosts, and is answered `a`. -/
theorem exec_row_settled {i : Instr} {req : Request} {m : State} {a : Answer} (hrow : rowRequest i = some (h, rt, req))
    (hserves : Serves s h rt req) (hcarry : carryOut h req s = (settle m, a)) (hbeside : m.besideHosts = s.besideHosts) :
    ∃ t, exec i s = .next t ∧ SameCore m t ∧ t.hosts = m.hosts ∧ t.session = m.session ∧ t.policy = s.policy ∧ SameBoard s t ∧
      Replies s t h rt req a.code a.data ∧ AttnSettled t := by
  obtain ⟨hboard, hpolicy, hports⟩ := board_of_besideHosts hbeside
  exact ⟨_, exec_row_carried hrow hserves hcarry, (sameCore_settle m).trans (sameCore_setWork _ _ _), rfl, rfl, hpolicy, hboard,
    replies_setWork (s := s) (t := settle m) hports h rt req a, attnSettled_setWork_settle _ _ _⟩

/-- A HANDBACK with a valid token is carried out. -/
theorem exec_handback (hserves : Serves s h rt (.handback tag epoch))
    (hjoined : (s.host h).presence = .present ∨ (s.host h).presence = .draining) (hvalid : ValidToken s h tag epoch u)
    (hc : s.occ u = some c) :
    ∃ t, exec (.handback h rt tag epoch) s = .next t ∧ SameCore (drainCheck h (handedBack u h s).1) t ∧
      t.hosts = (drainCheck h (handedBack u h s).1).hosts ∧ SameSession s t ∧ SameBoard s t ∧
      Replies s t h rt (.handback tag epoch) .ok (handbackData u (handedBack u h s).1 (handedBack u h s).2) ∧
      AttnSettled t := by
  have hcarry := carryOut_of_admitted (s := s) (h := h) (req := .handback tag epoch) (refusal_joined hjoined)
  rw [performRequest, handbackRequest, validToken_eq_some_iff.mpr ⟨hvalid, hc⟩] at hcarry
  dsimp only at hcarry
  rw [show returnRecord u h (removeEntry h u s) = handedBack u h s from rfl, settleAnswered_of_ok _ (a := okWith (handbackData u (handedBack u h s).1 (handedBack u h s).2)) rfl] at hcarry
  obtain ⟨hbeside, hsession, -, -⟩ := handedBack_keeps s u h
  have hbeside' : (drainCheck h (handedBack u h s).1).besideHosts = s.besideHosts := by
    refine Eq.trans ?_ hbeside
    unfold drainCheck
    split <;> rfl
  obtain ⟨t, hexec, hsame, hhosts, hsession', hpolicy, hboard, hreplies, hattn⟩ :=
    exec_row_settled (i := .handback h rt tag epoch) rfl hserves hcarry hbeside'
  exact ⟨t, hexec, hsame, hhosts, ⟨hsession'.trans ((drainCheck_session _ h).1.trans hsession), hpolicy⟩, hboard, hreplies, hattn⟩

theorem joined_of_stays (hjoined : StaysJoined s h u) :
    (s.host h).presence = .present ∨ (s.host h).presence = .draining := hjoined.imp_right And.left

/-- A HANDBACK that ends no drain: the course of the return, the hosts, and the reply. -/
theorem handback_returns (hserves : Serves s h rt (.handback tag epoch)) (hjoined : StaysJoined s h u)
    (hvalid : ValidToken s h tag epoch u) (hc : s.occ u = some c) :
    ∃ t, exec (.handback h rt tag epoch) s = .next t ∧ ReturnCourse s t h none u c ∧
      (∀ g, t.host g = (handedBack u h s).1.host g) ∧ SameSession s t ∧ SameBoard s t ∧
      Replies s t h rt (.handback tag epoch) .ok (handbackData u (handedBack u h s).1 (handedBack u h s).2) ∧
      AttnSettled t := by
  obtain ⟨t, hexec, hsame, hhosts, hsession, hboard, hreplies, hattn⟩ :=
    exec_handback hserves (joined_of_stays hjoined) hvalid hc
  have hclaimed : c.phase.isClaimed = true := (claimedBy_of_validToken (validToken_eq_some_iff.mpr ⟨hvalid, hc⟩)).isClaimed
  obtain ⟨-, -, hstanding, -⟩ := handedBack_keeps s u h
  obtain ⟨hpresence, -, -, -, hstack⟩ := standing_eq ((hstanding h).trans
    (congrArg HostContext.standing (withoutEntry_same s h u)))
  have hstays : drainCheck h (handedBack u h s).1 = (handedBack u h s).1 := drainCheck_of_joined hjoined hpresence hstack
  rw [hstays] at hsame hhosts
  exact ⟨t, hexec, (returnCourse_handedBack hc hclaimed).to_sameCore hsame,
    fun g => by rw [State.host, hhosts, State.host], hsession, hboard, hreplies, hattn⟩

theorem claimed_of_validToken (hvalid : ValidToken s h tag epoch u) (hc : s.occ u = some c) : c.phase.isClaimed = true :=
  (claimedBy_of_validToken (validToken_eq_some_iff.mpr ⟨hvalid, hc⟩)).isClaimed

/-- Settles O41: the record within its limit, with no other record of its origin PENDING. -/
theorem handbackReturnsToPending : Obligations.HandbackReturnsToPending := by
  intro s h rt tag epoch u c hserves hjoined hvalid hc hon hlimit hnone
  obtain ⟨t, hexec, ⟨-, -, -, hcourse⟩, hhosts, hsession, hboard, hreplies, hattn⟩ := handback_returns hserves hjoined hvalid hc
  obtain ⟨hrecord, hothers, hjoins, hlists, htables⟩ := hcourse hon hlimit hnone
  have hclaimed := claimed_of_validToken hvalid hc
  have hhost := (handedBack_host (h := h) hc hclaimed).1 (.inr hlimit)
  have hlevel := (comesBack_fields s h c).2.1
  refine ⟨t, hexec, ⟨returnedRecord_none_iff.mp hrecord, ?_, fun l hl => hlists l (hlevel ▸ hl), hothers⟩, htables,
    (hhosts h).trans ((hhost h).trans (withoutEntry_same s h u)),
    fun g hg => (hhosts g).trans ((hhost g).trans (withoutEntry_ne hg)), hboard, hsession,
    (congrArg (Replies s t h rt (.handback tag epoch) .ok)
      (((handbackData_handedBack hc hclaimed).2.2 hon hlimit).2 hnone)).mp hreplies, hattn⟩
  rw [hlevel]
  exact hjoins

/-- Settles O42: the course of a disabled origin, and of one past its limit. -/
theorem handbackWithdrawsOrAbandons : Obligations.HandbackWithdrawsOrAbandons := by
  refine ⟨fun s h rt tag epoch u c hserves hjoined hvalid hc hoff => ?_,
    fun s h rt tag epoch u c hserves hjoined hvalid hc hon hover => ?_⟩
  all_goals
    obtain ⟨t, hexec, ⟨hwithdrawn, habandoned, -, -⟩, hhosts, hsession, hboard, hreplies, hattn⟩ :=
      handback_returns hserves hjoined hvalid hc
    have hclaimed := claimed_of_validToken hvalid hc
    obtain ⟨hkept, htold⟩ := handedBack_host (h := h) hc hclaimed
    obtain ⟨hdata, hdata', -⟩ := handbackData_handedBack (h := h) hc hclaimed
  · exact ⟨t, hexec, hwithdrawn hoff, (hhosts h).trans ((hkept (.inl hoff) h).trans (withoutEntry_same s h u)),
      fun g hg => (hhosts g).trans ((hkept (.inl hoff) g).trans (withoutEntry_ne hg)), hboard, hsession, hattn,
      (congrArg (Replies s t h rt (.handback tag epoch) .ok) (hdata hoff)).mp hreplies⟩
  · exact ⟨t, hexec, habandoned hon hover (.inl rfl), fun g => (hhosts g).trans (htold hon hover g), hboard, hsession, hattn,
      (congrArg (Replies s t h rt (.handback tag epoch) .ok) (hdata' hon hover)).mp hreplies⟩

theorem mergedRecord_opened {terms : Terms} (union : HostSet)
    (hunion : union = excludedAfter terms.route (d.exclusion ||| excludedAfter terms.route (c.exclusion ||| hostBit h)))
    {merged : Nat} (hmerged : merged = min 255 (d.merge + ((if c.again then min 255 (c.merge + 1) else c.merge) + 1)))
    (hpending : d.phase.isPending = true) :
    (terms.preferred.any (fun p => hasHost union p) = false →
      mergedRecord s none h terms v c d = { s.record v with occ := some { d with
        merge := merged, reoffer := max d.reoffer (c.reoffer + 1), exclusion := union } }) ∧
    (terms.preferred.any (fun p => hasHost union p) = true →
      mergedRecord s none h terms v c d = { s.record v with
        timer := if d.phase = .pendingExcl then .stopped else (s.record v).timer
        occ := some { d with
          merge := merged, reoffer := max d.reoffer (c.reoffer + 1), exclusion := union
          phase := .pendingOpen } }) := by
  subst hunion hmerged
  refine ⟨fun hout => ?_, fun hin => ?_⟩
  · simp [mergedRecord, returnedFields, hout]
  · cases hphase : d.phase with
    | claimed k e ms => simp [Phase.isPending, hphase] at hpending
    | pendingExcl => simp [mergedRecord, returnedFields, hin, hphase]
    | pendingOpen => simp [mergedRecord, returnedFields, hin, hphase]

/-- Settles O43: the course of a record whose line source has a PENDING record. -/
theorem handbackMergesIntoThePendingRecord : Obligations.HandbackMergesIntoThePendingRecord := by
  intro s h rt tag epoch u v c d n hserves hjoined hvalid hc horigin hon hlimit hd honly
  obtain ⟨t, hexec, ⟨-, -, hcourse, -⟩, hhosts, hsession, hboard, hreplies, hattn⟩ := handback_returns hserves hjoined hvalid hc
  have hclaimed := claimed_of_validToken hvalid hc
  have hhost := handedBack_host (h := h) hc hclaimed
  have hdata := handbackData_handedBack (h := h) hc hclaimed
  rw [horigin] at hcourse hhost hdata
  obtain ⟨htag, hrecord, hothers, hsources, hgroups⟩ := hcourse hon hlimit v d hd honly
  have hkept := hhost.1 (.inr hlimit)
  refine ⟨t, hexec, htag, hsources, fun g => hgroups g nofun, fun merged hmerged union hunion => ?_, hothers,
    (hhosts h).trans ((hkept h).trans (withoutEntry_same s h u)),
    fun g hg => (hhosts g).trans ((hkept g).trans (withoutEntry_ne hg)), hboard, hsession,
    (congrArg (Replies s t h rt (.handback tag epoch) .ok) ((hdata.2.2 hon hlimit).1 v d hd honly)).mp hreplies, hattn⟩
  rw [hrecord]
  exact mergedRecord_opened union hunion hmerged honly.2.1

end Sys2Proof.Machine
end

section
/-! COMPLETE: the record is freed or re-armed (section 5.5). -/

namespace Sys2Proof.Machine

variable {s s' t t' m : State} {u v : Tag} {c d : Occurrence} {h : HostId} {rt : RequestTag} {tag epoch : Byte}

/-! ### The entry leaves, the strike count is 0 -/

/-- The first steps of a COMPLETE (R85 steps 1 and 2). -/
def struckOff (u : Tag) (h : HostId) (s : State) : State := clearStrikes h (removeEntry h u s)

/-- The Host Context of `g` after them. -/
def struckOffHost (s : State) (h : HostId) (u : Tag) (g : HostId) : HostContext :=
  if g = h then { s.host h with stack := (s.host h).stack.filter (fun e => decide (e.tag ≠ u)), strikes := 0 } else s.host g

theorem struckOff_host (s : State) (u : Tag) (h g : HostId) : (struckOff u h s).host g = struckOffHost s h u g := by
  by_cases hg : g = h
  · subst hg
    simp [struckOff, struckOffHost, clearStrikes, removeEntry_host, withoutEntry_same]
  · simp [struckOff, struckOffHost, clearStrikes, removeEntry_host, withoutEntry_ne, hg]

theorem struckOffHost_same (s : State) (u : Tag) (h : HostId) : struckOffHost s h u h =
    { s.host h with stack := (s.host h).stack.filter (fun e => decide (e.tag ≠ u)), strikes := 0 } := if_pos rfl

theorem struckOffHost_ne {g : HostId} (hg : g ≠ h) : struckOffHost s h u g = s.host g := if_neg hg

theorem sameCore_struckOff (s : State) (u : Tag) (h : HostId) : SameCore s (struckOff u h s) :=
  (sameCore_removeEntry s h u).trans (sameCore_setHost _ _ _)

theorem struckOffHost_kept (s : State) (u : Tag) (h g : HostId) : (struckOffHost s h u g).presence = (s.host g).presence ∧
    (struckOffHost s h u g).queue = (s.host g).queue := by
  by_cases hg : g = h
  · subst hg
    rw [struckOffHost_same]
    exact ⟨rfl, rfl⟩
  · rw [struckOffHost_ne hg]
    exact ⟨rfl, rfl⟩

theorem struckOff_presence (s : State) (u : Tag) (h g : HostId) :
    ((struckOff u h s).host g).presence = (s.host g).presence := by
  rw [struckOff_host, (struckOffHost_kept s u h g).1]

/-! ### The re-arm check (R39) -/

theorem rearms_line (s : State) (n : LineId) (hc : c.origin = .line n) : s.rearms c =
    ((s.line n).desc.enabled && (s.line n).desc.group.isNone && (if (s.line n).desc.sense.isLevel then s.stands n
      else decide ((s.line n).desc.clearPolicy = .onComplete) && c.again)) := by
  rw [State.rearms, hc]

theorem rearms_iff (s : State) (c : Occurrence) : s.rearms c = true ↔ ReArms s c.origin c.again := by
  cases ho : c.origin with
  | posted n => simp [State.rearms, ho, ReArms]
  | group g => simp [State.rearms, ho, ReArms]
  | line n =>
    rw [rearms_line s n ho, State.stands_eq]
    cases hlevel : (s.line n).desc.sense.isLevel with
    | true => simp [ReArms, hlevel, and_assoc]
    | false =>
      have hnot : (s.line n).filter.any (fun f => decide (AtActiveLevel (s.line n).desc.sense f.filtered)) = false := by
        cases hf : (s.line n).filter with
        | none => rfl
        | some f =>
          refine decide_eq_false fun hactive => ?_
          exact absurd (hlevel.symm.trans (Sense.isLevel_of_atActiveLevel hactive)) nofun
      rw [Bool.and_eq_true, Bool.and_eq_true, Option.isNone_iff_eq_none, if_neg Bool.false_ne_true, Bool.and_eq_true,
        decide_eq_true_eq]
      constructor
      · rintro ⟨⟨henabled, hgroup⟩, hpolicy, hagain⟩
        exact .inl ⟨n, rfl, henabled, hgroup, .inl ⟨hlevel, hpolicy, hagain⟩⟩
      · rintro (⟨m, ⟨⟩, henabled, hgroup, ⟨-, hpolicy, hagain⟩ | hstands⟩ | ⟨g, ⟨⟩, -⟩)
        · exact ⟨⟨henabled, hgroup⟩, hpolicy, hagain⟩
        · exact absurd (hnot.symm.trans hstands) nofun

theorem rearms_struckOff (s : State) (u : Tag) (h : HostId) (c : Occurrence) : (struckOff u h s).rearms c = s.rearms c := by
  unfold State.rearms
  split <;> rfl

/-! ### COMPLETE as a request -/

/-- COMPLETE with a valid token, by the re-arm check. -/
theorem completeRequest_of_valid (hvalid : ValidToken s h tag epoch u) (hc : s.occ u = some c) :
    (ReArms s c.origin c.again → completeRequest h tag epoch s = (drainCheck h (rearm u c (struckOff u h s)),
      okWith [1, byte u.val, (rearm u c (struckOff u h s)).seqByte u, byte ((rearm u c (struckOff u h s)).stateCode u)])) ∧
    (¬ ReArms s c.origin c.again → completeRequest h tag epoch s =
      (drainCheck h (noticePostedDone h c (freeRecord u (struckOff u h s))), okWith [0, byte u.val])) := by
  rw [completeRequest, validToken_eq_some_iff.mpr ⟨hvalid, hc⟩]
  dsimp only
  rw [← struckOff, rearms_struckOff, ← rearms_iff]
  exact ⟨fun h => if_pos h, fun h => if_neg h⟩

theorem drainCheck_besideHosts (s : State) (h : HostId) : (drainCheck h s).besideHosts = s.besideHosts := by
  unfold drainCheck
  split <;> rfl

/-- A request of a joined host that leads to the drain check of `m`. -/
theorem exec_row_drained {i : Instr} {req : Request} {a : Answer} (hrow : rowRequest i = some (h, rt, req))
    (hserves : Serves s h rt req) (hcarry : carryOut h req s = settleAnswered (drainCheck h m, a)) (hok : a.code = .ok)
    (hbeside : m.besideHosts = s.besideHosts) (hsession : m.session = s.session) :
    ∃ t, exec i s = .next t ∧ SameCore (drainCheck h m) t ∧ t.hosts = (drainCheck h m).hosts ∧ SameSession s t ∧
      SameBoard s t ∧ Replies s t h rt req a.code a.data ∧ AttnSettled t := by
  rw [settleAnswered_of_ok _ hok] at hcarry
  obtain ⟨t, hexec, hsame, hhosts, hsession', hpolicy, hboard, hreplies, hattn⟩ :=
    exec_row_settled hrow hserves hcarry ((drainCheck_besideHosts m h).trans hbeside)
  exact ⟨t, hexec, hsame, hhosts, ⟨hsession'.trans ((drainCheck_session m h).1.trans hsession), hpolicy⟩, hboard, hreplies, hattn⟩

/-! ### The record is freed -/

theorem noticePostedDone_eq (h : HostId) (c : Occurrence) (s : State) : ∃ x, noticePostedDone h c s = { s with hosts := x } := by
  unfold noticePostedDone
  split
  · split
    · exact place_eq _ _ s
    · exact ⟨s.hosts, rfl⟩
  · exact ⟨s.hosts, rfl⟩

/-- The record is freed, and the raiser told (R85 steps 4 and 5). -/
def freedByComplete (u : Tag) (h : HostId) (c : Occurrence) (s : State) : State :=
  noticePostedDone h c (freeRecord u (struckOff u h s))

theorem freedByComplete_keeps (s : State) (u : Tag) (h : HostId) (c : Occurrence) :
    (freedByComplete u h c s).besideHosts = s.besideHosts ∧ (freedByComplete u h c s).session = s.session ∧
      SameCore (freeRecord u (struckOff u h s)) (freedByComplete u h c s) := by
  have hpool := freeRecord_besidePool (struckOff u h s) u
  obtain ⟨x, hx⟩ := noticePostedDone_eq h c (freeRecord u (struckOff u h s))
  have hbeside : (freeRecord u (struckOff u h s)).besideHosts = s.besideHosts := (State.besideHosts_of_pool hpool).trans rfl
  have hsession : (freeRecord u (struckOff u h s)).session = s.session := (State.session_of_pool hpool).trans rfl
  rw [freedByComplete, hx]
  exact ⟨hbeside, hsession, x, _, _, _, rfl⟩

theorem tagFreed_freedByComplete (hc : s.occ u = some c) (hclaimed : c.phase.isClaimed = true) :
    TagFreed s (freedByComplete u h c s) none u c := by
  obtain ⟨-, -, _, _, _, _, hsame⟩ := freedByComplete_keeps s u h c
  rw [hsame]
  refine tagFreed_to (fun _ => rfl) rfl rfl rfl rfl ?_
  exact (sameCore_struckOff s u h).tagFreed (struckOff_presence s u h) (tagFreed_freeRecord (s := struckOff u h s) hc hclaimed)

theorem freeRecord_struckOff_host (s : State) (u : Tag) (h g : HostId) :
    (freeRecord u (struckOff u h s)).host g = struckOffHost s h u g := by
  rw [State.host, State.hosts_of_pool (freeRecord_besidePool (struckOff u h s) u)]
  exact struckOff_host s u h g

/-- The raiser of a POSTED record that asked is told, where it takes notices (R116). -/
theorem freedByComplete_told {k : PostedId} {p : PostedFields} (horigin : c.origin = .posted k) (hposted : c.posted = some p)
    (hnotify : p.notify = true) (g : HostId) : (freedByComplete u h c s).host g =
      if g = p.raiser ∧ (s.host g).presence.takesNotices = true then
        (struckOffHost s h u g).enqueue (.postedDone k c.seq h) else struckOffHost s h u g := by
  rw [freedByComplete, noticePostedDone, horigin, hposted]
  dsimp only
  rw [if_pos hnotify, place_host, freeRecord_struckOff_host, (struckOffHost_kept s u h g).1]

theorem freedByComplete_untold (hnot : ∀ p : PostedFields, c.posted = some p → p.notify = true →
    (∀ k, c.origin ≠ .posted k) ∨ (s.host p.raiser).presence = .absent ∨ (s.host p.raiser).presence = .fenced) (g : HostId) :
    (freedByComplete u h c s).host g = struckOffHost s h u g := by
  by_cases htold : ∃ k p, c.origin = .posted k ∧ c.posted = some p ∧ p.notify = true
  · obtain ⟨k, p, horigin, hposted, hnotify⟩ := htold
    rw [freedByComplete_told horigin hposted hnotify, if_neg]
    rintro ⟨rfl, htakes⟩
    rcases hnot p hposted hnotify with h' | h' | h'
    · exact h' k horigin
    · simp [h', Presence.takesNotices] at htakes
    · simp [h', Presence.takesNotices] at htakes
  · refine Eq.trans (congrArg (fun x => State.host x g) ?_) (freeRecord_struckOff_host s u h g)
    unfold freedByComplete noticePostedDone
    split
    case h_1 k p horigin hposted => exact if_neg fun hnotify => htold ⟨k, p, horigin, hposted, hnotify⟩
    case h_2 => rfl

theorem freedByComplete_standing (s : State) (u : Tag) (h : HostId) (c : Occurrence) (g : HostId) :
    ((freedByComplete u h c s).host g).standing = (struckOffHost s h u g).standing := by
  by_cases htold : ∃ k p, c.origin = .posted k ∧ c.posted = some p ∧ p.notify = true
  · obtain ⟨k, p, horigin, hposted, hnotify⟩ := htold
    rw [freedByComplete_told horigin hposted hnotify]
    split
    · exact enqueue_standing _ _
    · rfl
  · rw [freedByComplete_untold fun p hposted hnotify => .inl fun k horigin => htold ⟨k, p, horigin, hposted, hnotify⟩]

/-- A COMPLETE without re-arm. -/
theorem exec_complete_freed (hserves : Serves s h rt (.complete tag epoch))
    (hjoined : (s.host h).presence = .present ∨ (s.host h).presence = .draining) (hvalid : ValidToken s h tag epoch u)
    (hc : s.occ u = some c) (hnot : ¬ ReArms s c.origin c.again) :
    ∃ t, exec (.complete h rt tag epoch) s = .next t ∧ SameCore (drainCheck h (freedByComplete u h c s)) t ∧
      t.hosts = (drainCheck h (freedByComplete u h c s)).hosts ∧ SameSession s t ∧ SameBoard s t ∧
      Replies s t h rt (.complete tag epoch) .ok [0, byte u.val] ∧ AttnSettled t := by
  have hcarry := carryOut_of_admitted (s := s) (h := h) (req := .complete tag epoch) (refusal_joined hjoined)
  rw [performRequest, (completeRequest_of_valid hvalid hc).2 hnot] at hcarry
  obtain ⟨hbeside, hsession, -⟩ := freedByComplete_keeps s u h c
  exact exec_row_drained (i := .complete h rt tag epoch) (a := okWith [0, byte u.val]) rfl hserves hcarry rfl hbeside hsession

/-- Settles O39: by whether the raiser is told, and whether it is the holder. -/
theorem completeFreesTheRecord : Obligations.CompleteFreesTheRecord := by
  intro s h rt tag epoch u c hserves hjoined hvalid hc hnot
  obtain ⟨t, hexec, hsame, hhosts, hsession, hboard, hreplies, hattn⟩ :=
    exec_complete_freed hserves (joined_of_stays hjoined) hvalid hc hnot
  obtain ⟨hpresence, -, -, -, hstack⟩ := standing_eq ((freedByComplete_standing s u h c h).trans
    (congrArg HostContext.standing (struckOffHost_same s u h)))
  rw [drainCheck_of_joined hjoined hpresence hstack] at hsame hhosts
  have hhost : ∀ g, t.host g = (freedByComplete u h c s).host g := fun g => by rw [State.host, hhosts, State.host]
  have hfreed : TagFreed s t none u c := by
    obtain ⟨_, _, _, _, rfl⟩ := hsame
    exact tagFreed_to (fun _ => rfl) rfl rfl rfl rfl (tagFreed_freedByComplete hc (claimed_of_validToken hvalid hc))
  refine ⟨t, hexec, hboard, hsession, hreplies, hattn, hfreed, fun huntold => ?_,
    fun k p horigin hposted hnotify hother htakes => ?_, fun k p horigin hposted hnotify hself => ?_⟩
  · have hkept := fun g => (hhost g).trans (freedByComplete_untold (h := h) (u := u) huntold g)
    exact ⟨(hkept h).trans (struckOffHost_same s u h), fun g hg => (hkept g).trans (struckOffHost_ne hg)⟩
  · have htold := fun g => (hhost g).trans (freedByComplete_told (s := s) (h := h) (u := u) horigin hposted hnotify g)
    refine ⟨?_, ?_, fun g hg hraiser => ?_⟩
    · rw [NoticePlaced, htold p.raiser, if_pos ⟨rfl, takesNotices_iff.mpr htakes⟩, struckOffHost_ne hother]
      exact enqueue_cases _ _
    · rw [htold h, if_neg fun h' => hother h'.1.symm, struckOffHost_same]
    · rw [htold g, if_neg fun h' => hraiser h'.1, struckOffHost_ne hg]
  · subst hself
    have htold := fun g => (hhost g).trans (freedByComplete_told (s := s) (h := p.raiser) (u := u) horigin hposted hnotify g)
    have hraiser : t.host p.raiser = (struckOffHost s p.raiser u p.raiser).enqueue (.postedDone k c.seq p.raiser) :=
      (htold p.raiser).trans (if_pos ⟨rfl, takesNotices_iff.mpr (joined_of_stays hjoined)⟩)
    rw [struckOffHost_same] at hraiser
    refine ⟨fun g hg => (htold g).trans ((if_neg fun h' => hg h'.1).trans (struckOffHost_ne hg)), fun hroom => ?_, fun hfull => ?_⟩
    · exact hraiser.trans (if_pos hroom)
    · exact hraiser.trans (if_neg (Nat.not_lt.mpr hfull))

/-! ### The record is re-armed -/

/-- The fields of the new occurrence in the same tag (R40). -/
def rearmedFields (s : State) (c : Occurrence) : Occurrence :=
  { c with
    seq := s.seqOf c.origin + 1, level := (s.termsOf c.origin).level, merge := 0, again := false
    exclusion := 0, reoffer := 0 }

theorem rearm_eq (s : State) (u : Tag) (c : Occurrence) :
    rearm u c s = enterPending u (rearmedFields s c) (s.advanceSeq c.origin) := by
  have hterms : (s.advanceSeq c.origin).termsOf c.origin = s.termsOf c.origin :=
    State.termsOf_of_descs (State.descs_advanceSeq s c.origin) c.origin
  simp only [rearm, seqOf_advanceSeq, hterms, rearmedFields]

theorem rearm_struckOff (s : State) (u : Tag) (h : HostId) (c : Occurrence) :
    EntersPending s (rearm u c (struckOff u h s)) u (s.termsOf c.origin) (rearmedFields s c) := by
  have hfields : rearmedFields (struckOff u h s) c = rearmedFields s c := by
    obtain ⟨origin, seq, level, merge, again, posted, exclusion, reoffer, phase⟩ := c
    cases origin <;> rfl
  have hterms : ((struckOff u h s).advanceSeq c.origin).termsOf (rearmedFields s c).origin = s.termsOf c.origin := by
    refine (State.termsOf_of_descs (State.descs_advanceSeq _ c.origin) c.origin).trans ?_
    cases c.origin <;> rfl
  rw [rearm_eq, hfields, ← hterms]
  refine (entersPending_enterPending ((struckOff u h s).advanceSeq c.origin) u (rearmedFields s c)).of_eq (fun v => ?_)
    (fun l => ?_) fun g => ?_
  · rw [record_advanceSeq]
    exact (sameCore_struckOff s u h).record v
  · rw [list_advanceSeq]
    rfl
  · rw [host_advanceSeq, struckOff_presence]

theorem rearm_tables (s : State) (u : Tag) (c : Occurrence) :
    (rearm u c s).hosts = s.hosts ∧ (rearm u c s).besidePool = s.besidePool ∧
    ((∀ k, c.origin ≠ .posted k) → (rearm u c s).postedSources = s.postedSources) ∧
    (∀ n, (rearm u c s).line n = if c.origin = .line n then { s.line n with seq := (s.line n).seq + 1 } else s.line n) ∧
    ∀ g, (rearm u c s).group g = if c.origin = .group g then { s.group g with seq := (s.group g).seq + 1 } else s.group g := by
  have hpool : (rearm u c s).besidePool = s.besidePool := by
    rw [rearm_eq]
    exact (enterPending_besidePool _ _ _).trans (State.besidePool_advanceSeq s c.origin)
  refine ⟨State.hosts_of_pool hpool, hpool, fun ho => ?_, fun n => ?_, fun g => ?_⟩
  · rw [rearm_eq]
    cases horigin : c.origin with
    | line n => rfl
    | group g => rfl
    | posted k => exact absurd horigin (ho k)
  · rw [rearm_eq, line_enterPending, line_advanceSeq]
  · rw [rearm_eq, group_enterPending, group_advanceSeq]

/-- The reply to a COMPLETE with re-arm (R86). -/
theorem rearm_reply (s : State) (u : Tag) (h : HostId) (c : Occurrence) :
    [1, byte u.val, (rearm u c (struckOff u h s)).seqByte u, byte ((rearm u c (struckOff u h s)).stateCode u)] =
      [1, byte u.val, s.seqOf c.origin + 1, if WindowHolds s (s.termsOf c.origin) 0 then 1 else 2] := by
  obtain ⟨hentered, -⟩ := rearm_struckOff s u h c
  rw [State.seqByte, State.stateCode, State.occ]
  obtain ⟨hholds, hr⟩ | ⟨hholds, hr⟩ := hentered <;> rw [hr]
  · rw [if_pos (show WindowHolds s (s.termsOf c.origin) 0 from hholds)]
    rfl
  · rw [if_neg (show ¬ WindowHolds s (s.termsOf c.origin) 0 from hholds)]
    rfl

theorem origin_of_reArms {o : Origin} {again : Bool} (hrearms : ReArms s o again) : ∀ k, o ≠ .posted k := by
  rintro k rfl
  obtain ⟨n, hn, -⟩ | ⟨g, hg, -⟩ := hrearms
  · cases hn
  · cases hg

/-- A COMPLETE with re-arm. -/
theorem exec_complete_rearmed (hserves : Serves s h rt (.complete tag epoch))
    (hjoined : (s.host h).presence = .present ∨ (s.host h).presence = .draining) (hvalid : ValidToken s h tag epoch u)
    (hc : s.occ u = some c) (hrearms : ReArms s c.origin c.again) :
    ∃ t, exec (.complete h rt tag epoch) s = .next t ∧ SameCore (drainCheck h (rearm u c (struckOff u h s))) t ∧
      t.hosts = (drainCheck h (rearm u c (struckOff u h s))).hosts ∧ SameSession s t ∧ SameBoard s t ∧
      Replies s t h rt (.complete tag epoch) .ok
        [1, byte u.val, s.seqOf c.origin + 1, if WindowHolds s (s.termsOf c.origin) 0 then 1 else 2] ∧ AttnSettled t := by
  have hcarry := carryOut_of_admitted (s := s) (h := h) (req := .complete tag epoch) (refusal_joined hjoined)
  rw [performRequest, (completeRequest_of_valid hvalid hc).1 hrearms, rearm_reply] at hcarry
  obtain ⟨-, hpool, -⟩ := rearm_tables (struckOff u h s) u c
  exact exec_row_drained (i := .complete h rt tag epoch) (a := okWith _) rfl hserves hcarry rfl
    ((State.besideHosts_of_pool hpool).trans rfl) ((State.session_of_pool hpool).trans rfl)

theorem rearm_struckOff_host (s : State) (u : Tag) (h : HostId) (c : Occurrence) (g : HostId) :
    (rearm u c (struckOff u h s)).host g = struckOffHost s h u g := by
  rw [State.host, (rearm_tables (struckOff u h s) u c).1]
  exact struckOff_host s u h g

/-- Settles O40: the tag is taken by a new occurrence of the origin. -/
theorem completeRearmsTheRecord : Obligations.CompleteRearmsTheRecord := by
  intro s h rt tag epoch u c hserves hjoined hvalid hc hrearms
  obtain ⟨t, hexec, hsame, hhosts, hsession, hboard, hreplies, hattn⟩ :=
    exec_complete_rearmed hserves (joined_of_stays hjoined) hvalid hc hrearms
  have hholder := (rearm_struckOff_host s u h c h).trans (struckOffHost_same s u h)
  rw [drainCheck_of_joined hjoined (by rw [hholder]) (by rw [hholder])] at hsame hhosts
  have hhost : ∀ g, t.host g = struckOffHost s h u g := fun g => by
    rw [State.host, hhosts]
    exact rearm_struckOff_host s u h c g
  obtain ⟨-, -, hposted, hlines, hgroups⟩ := rearm_tables (struckOff u h s) u c
  have hentered := rearm_struckOff s u h c
  obtain ⟨_, _, _, _, rfl⟩ := hsame
  exact ⟨_, hexec, hentered, (hhost h).trans (struckOffHost_same s u h), fun g hg => (hhost g).trans (struckOffHost_ne hg),
    hposted (origin_of_reArms hrearms), hlines, hgroups, hboard, hsession, hreplies, hattn⟩

end Sys2Proof.Machine
end

section
/-! The expiry of a lease (section 5.7), and the end of a drain (section 8.4.1). -/

namespace Sys2Proof.Machine

variable {s s' t t' m : State} {u v : Tag} {c d : Occurrence} {h : HostId} {rt : RequestTag} {tag epoch : Byte}

/-! ### The return at the expiry -/

/-- The first steps of the expiry (R90 steps 1 and 2). -/
def leaseRevoked (u : Tag) (h : HostId) (c : Occurrence) (s : State) : State :=
  place h (.revoked u c.origin c.seq) (removeEntry h u s)

/-- The record after them has returned (R90 step 3). -/
def leaseReturned (u : Tag) (h : HostId) (c : Occurrence) (s : State) : State := (returnRecord u h (leaseRevoked u h c s)).1

theorem sameCore_leaseRevoked (s : State) (u : Tag) (h : HostId) (c : Occurrence) : SameCore s (leaseRevoked u h c s) :=
  (sameCore_removeEntry s h u).trans (sameCore_place _ _ _)

theorem leaseRevoked_host (c : Occurrence) (htakes : (s.host h).presence.takesNotices = true) (g : HostId) :
    (leaseRevoked u h c s).host g = if g = h then revokedHost s h u c else s.host g := by
  rw [leaseRevoked, place_host, removeEntry_presence, removeEntry_host]
  by_cases hg : g = h
  · subst hg
    rw [if_pos ⟨rfl, htakes⟩, if_pos rfl]
    rfl
  · rw [if_neg fun h' => hg h'.1, if_neg hg, withoutEntry_ne hg]

theorem leaseRevoked_standing (s : State) (u : Tag) (h : HostId) (c : Occurrence) (g : HostId) :
    ((leaseRevoked u h c s).host g).standing = (withoutEntry s h u g).standing := by
  rw [leaseRevoked, place_standing, removeEntry_host]

theorem leaseRevoked_presence (s : State) (u : Tag) (h : HostId) (c : Occurrence) (g : HostId) :
    ((leaseRevoked u h c s).host g).presence = (s.host g).presence :=
  (presence_of_standing (leaseRevoked_standing s u h c g)).trans (withoutEntry_presence s h u g)

theorem leaseReturned_keeps (s : State) (u : Tag) (h : HostId) (c : Occurrence) :
    (leaseReturned u h c s).besideHosts = s.besideHosts ∧ (leaseReturned u h c s).session = s.session ∧
      (∀ g, ((leaseReturned u h c s).host g).standing = (withoutEntry s h u g).standing) ∧
      ∀ v, ((leaseReturned u h c s).record v).epoch = (s.record v).epoch := by
  obtain ⟨hbeside, hsession, hstanding⟩ := returnRecord_keeps (leaseRevoked u h c s) u h
  have hplace : (leaseRevoked u h c s).besideHosts = s.besideHosts := place_besideHosts _ _ _
  have hplace' : (leaseRevoked u h c s).session = s.session := place_session _ _ _
  refine ⟨hbeside.trans hplace, hsession.trans hplace', fun g => (hstanding g).trans (leaseRevoked_standing s u h c g),
    fun v => (returnRecord_epoch (leaseRevoked u h c s) u v h).trans ?_⟩
  rw [(sameCore_leaseRevoked s u h c).record]

theorem leaseRevoked_occ (s : State) (u : Tag) (h : HostId) (c : Occurrence) (v : Tag) :
    (leaseRevoked u h c s).occ v = s.occ v := by
  rw [State.occ, (sameCore_leaseRevoked s u h c).record, State.occ]

theorem leaseReturned_course (hc : s.occ u = some c) (hclaimed : c.phase.isClaimed = true) :
    ReturnCourse s (leaseReturned u h c s) h none u c ∧
      ((leaseReturned u h c s).occ u).any (fun d => d.phase.isClaimed) = false := by
  have hc' : (leaseRevoked u h c s).occ u = some c := (leaseRevoked_occ s u h c u).trans hc
  exact ⟨(sameCore_leaseRevoked s u h c).returnCourse (leaseRevoked_presence s u h c) (returnCourse_returnRecord hc' hclaimed),
    any_isClaimed_of_holding ((holding_returnRecord hc' hclaimed h u).trans (if_pos rfl))⟩

theorem SameCore.termsOf (h : SameCore s s') (o : Origin) : s'.termsOf o = s.termsOf o ∧ s'.enabledOf o = s.enabledOf o := by
  obtain ⟨_, _, _, _, rfl⟩ := h
  cases o <;> exact ⟨rfl, rfl⟩

/-- The hosts after the return: told of an abandonment, and kept in every other course. -/
theorem leaseReturned_host (hc : s.occ u = some c) (hclaimed : c.phase.isClaimed = true) :
    (s.enabledOf c.origin = false ∨ c.reoffer + 1 ≤ (s.termsOf c.origin).reofferLimit.val →
      ∀ g, (leaseReturned u h c s).host g = (leaseRevoked u h c s).host g) ∧
    (s.enabledOf c.origin = true → (s.termsOf c.origin).reofferLimit.val < c.reoffer + 1 →
      ∀ g, (leaseReturned u h c s).host g = toldOfAbandonment s c g ((leaseRevoked u h c s).host g)) := by
  have hc' : (leaseRevoked u h c s).occ u = some c := (leaseRevoked_occ s u h c u).trans hc
  obtain ⟨hterms, henabled⟩ := (sameCore_leaseRevoked s u h c).termsOf c.origin
  refine ⟨fun hkept g => ?_, fun hon hover g => ?_⟩
  · have hhosts : (leaseReturned u h c s).hosts = (leaseRevoked u h c s).hosts := by
      cases hon : s.enabledOf c.origin with
      | false => exact (withdrawn_returnRecord hc' hclaimed (henabled.trans hon)).2
      | true =>
        refine kept_returnRecord_hosts hc' hclaimed (henabled.trans hon) ?_
        rw [hterms]
        exact hkept.resolve_left (by simp [hon])
    rw [State.host, hhosts, State.host]
  · rw [← hterms] at hover
    refine ((abandoned_returnRecord_host hc' hclaimed (henabled.trans hon) hover).2 g).trans ?_
    simp only [toldOfAbandonment, hterms]

/-! ### The event -/

theorem exec_leaseExpiry (hclocked : Clocked s) (hc : s.occ u = some c)
    (hphase : c.phase = .claimed h c.phase.extensions c.phase.members) (hdue : (s.record u).timer = .due) :
    exec (.leaseExpiry u) s = .next (settle (drainCheck h (strikeStep h (leaseReturned u h c s)))) := by
  have hevent : leaseEvent u s = settle (expireLease u h c s) := by
    simp only [leaseEvent, hc, hdue]
    rw [hphase]
  have hexec : exec (.leaseExpiry u) s = .next (leaseEvent u s) := if_pos (clocked_iff.mpr hclocked)
  rw [hexec, hevent]
  rfl

theorem isClaimed_of_phase {k : Nat} {ms : List LineId} (hphase : c.phase = .claimed h k ms) : c.phase.isClaimed = true := by
  rw [hphase]
  rfl

theorem saturate_strikes (k : Nat) : saturate Config.strikeMax k 1 = min 7 (k + 1) := by
  simp [saturate, Config.strikeMax]

/-- A strike below the limit (R91). -/
theorem strikeStep_below (hpresent : (s.host h).presence = .present)
    (hbelow : s.policy.strikeLimit.val = 0 ∨ min 7 ((s.host h).strikes + 1) < s.policy.strikeLimit.val) :
    strikeStep h s = s.setHost h { s.host h with strikes := min 7 ((s.host h).strikes + 1) } := by
  rw [strikeStep, if_pos hpresent, saturate_strikes]
  refine if_neg ?_
  rw [State.host_setHost_same]
  change ¬ (0 < s.policy.strikeLimit.val ∧ s.policy.strikeLimit.val ≤ min 7 ((s.host h).strikes + 1))
  omega

/-- Settles O15: the return, then the strike. -/
theorem leaseExpiryReturnsTheRecord : Obligations.LeaseExpiryReturnsTheRecord := by
  intro s u c h hclocked hc hphase hdue hpresent hbelow
  have hclaimed := isClaimed_of_phase hphase
  obtain ⟨hbeside, hsession, hstanding, hepoch⟩ := leaseReturned_keeps s u h c
  obtain ⟨hcourse, -⟩ := leaseReturned_course (h := h) hc hclaimed
  obtain ⟨hkept, htold⟩ := leaseReturned_host (h := h) hc hclaimed
  have hrevoked := leaseRevoked_host (u := u) c (takesNotices_iff.mpr (.inl hpresent) : (s.host h).presence.takesNotices = true)
  have hexec := exec_leaseExpiry hclocked hc hphase hdue
  obtain ⟨m, hm⟩ : ∃ m, m = leaseReturned u h c s := ⟨_, rfl⟩
  rw [← hm] at hbeside hsession hstanding hepoch hcourse hkept htold hexec
  obtain ⟨hboard, hpolicy, hports⟩ := board_of_besideHosts hbeside
  obtain ⟨hpresence, -, -, hstrikes, -⟩ := standing_eq ((hstanding h).trans (congrArg _ (withoutEntry_same s h u)))
  have hpresent' : (m.host h).presence = .present := hpresence.trans hpresent
  have hstruck : strikeStep h m = m.setHost h { m.host h with strikes := min 7 ((m.host h).strikes + 1) } := by
    refine strikeStep_below hpresent' ?_
    rw [hpolicy, hstrikes]
    exact hbelow
  have hdrain : drainCheck h (strikeStep h m) = strikeStep h m := by
    refine if_neg fun h' => ?_
    rw [hstruck, State.host_setHost_same] at h'
    exact absurd (h'.1.symm.trans hpresent') nofun
  rw [hdrain, hstruck, hstrikes] at hexec
  have hholder : ∀ x : HostContext, m.host h = x →
      (settle (m.setHost h { m.host h with strikes := min 7 ((s.host h).strikes + 1) })).host h =
        { x with strikes := min 7 ((s.host h).strikes + 1) } := fun x hx => by
    rw [← hx]
    exact State.host_setHost_same _ _ _
  have hother : ∀ g, g ≠ h →
      (settle (m.setHost h { m.host h with strikes := min 7 ((s.host h).strikes + 1) })).host g = m.host g :=
    fun g hg => State.host_setHost_ne _ _ _ _ hg
  refine ⟨_, hexec, hcourse.to_sameCore ((sameCore_setHost _ _ _).trans (sameCore_settle _)), fun hcase => ⟨?_, fun g hg => ?_⟩,
    fun hon hover => ⟨?_, fun g hg => ?_⟩, hepoch, ⟨hboard, ⟨hsession, hpolicy⟩, hports⟩, attnSettled_settle _⟩
  · exact hholder _ ((hkept hcase h).trans ((hrevoked h).trans (if_pos rfl)))
  · exact (hother g hg).trans ((hkept hcase g).trans ((hrevoked g).trans (if_neg hg)))
  · exact hholder _ ((htold hon hover h).trans (by rw [hrevoked h, if_pos rfl]))
  · exact (hother g hg).trans ((htold hon hover g).trans (by rw [hrevoked g, if_neg hg]))

/-! ### The end of a drain (R129) -/

theorem drainedContext {x y : HostContext} (hxy : x.standing = y.standing) (hempty : y.stack = []) :
    ({ x with presence := .absent, queue := [], overflow := false } : HostContext) =
      { y with presence := .absent, stack := [], queue := [], overflow := false } := by
  obtain ⟨-, hfloor, hgeneration, hstrikes, hstack⟩ := standing_eq hxy
  rw [hfloor, hgeneration, hstrikes, hstack, hempty]

theorem standingKept_of_standing {g : HostId} (hg : (t.host g).standing = (s.host g).standing) : StandingKept g s t :=
  standing_eq hg

theorem stack_emptied {l : List StackEntry} (hall : ∀ e ∈ l, e.tag = u) : l.filter (fun e => decide (e.tag ≠ u)) = [] := by
  rw [List.filter_eq_nil_iff]
  simpa using hall

/-- What the hosts hold after the drain check that follows the removal of the last entry. -/
theorem drained_hosts (hdraining : (s.host h).presence = .draining) (hall : ∀ e ∈ (s.host h).stack, e.tag = u) {k : Nat}
    (hholder : (m.host h).standing = HostContext.standing { s.host h with
      stack := (s.host h).stack.filter (fun e => decide (e.tag ≠ u)), strikes := k })
    (hothers : ∀ g, g ≠ h → (m.host g).standing = (s.host g).standing) (hhosts : t.hosts = (drainCheck h m).hosts) :
    t.host h = { s.host h with presence := .absent, strikes := k, stack := [], queue := [], overflow := false } ∧
      ∀ g, g ≠ h → StandingKept g s t := by
  have hempty := stack_emptied hall
  obtain ⟨hpresence, -, -, -, hstack⟩ := standing_eq hholder
  have hdrain : drainCheck h m = flush h (m.setHost h { m.host h with presence := .absent }) :=
    if_pos ⟨hpresence.trans hdraining, hstack.trans hempty⟩
  rw [hdrain] at hhosts
  have hhost : ∀ g, t.host g = (flush h (m.setHost h { m.host h with presence := .absent })).host g :=
    fun g => by rw [State.host, hhosts]; rfl
  refine ⟨?_, fun g hg => standingKept_of_standing ?_⟩
  · rw [hhost, flush_host_same, State.host_setHost_same]
    exact drainedContext hholder hempty
  · rw [hhost, flush_host_ne _ _ _ hg, State.host_setHost_ne _ _ _ _ hg]
    exact hothers g hg

theorem withoutEntry_standing_ne {g : HostId} (hg : g ≠ h) : (withoutEntry s h u g).standing = (s.host g).standing := by
  rw [withoutEntry_ne hg]

/-- An entry to PENDING keeps every epoch and leaves the record unclaimed. -/
theorem EntersPending.sameEpochs {terms : Terms} (hentered : EntersPending s t u terms c) (v : Tag) :
    (t.record v).epoch = (s.record v).epoch := by
  obtain ⟨hrecord, -, -, hothers⟩ := hentered
  by_cases hv : v = u
  · subst hv
    obtain ⟨-, hr⟩ | ⟨-, hr⟩ := hrecord <;> rw [hr]
  · rw [hothers v hv]

theorem EntersPending.unclaimed {terms : Terms} (hentered : EntersPending s t u terms c) :
    (t.occ u).any (fun d => d.phase.isClaimed) = false := by
  obtain ⟨hrecord, -⟩ := hentered
  rw [State.occ]
  obtain ⟨-, hr⟩ | ⟨-, hr⟩ := hrecord <;> rw [hr] <;> rfl

theorem freedByComplete_epoch (hc : s.occ u = some c) (v : Tag) :
    ((freedByComplete u h c s).record v).epoch = (s.record v).epoch := by
  rw [(freedByComplete_keeps s u h c).2.2.record]
  have hfreed : EpochsAre (fun v => (s.record v).epoch) (freeRecord u (struckOff u h s)) :=
    EpochsAre.freeRecord (s := struckOff u h s) (fun _ => rfl) hc
  exact hfreed v

theorem freedByComplete_unclaimed (hc : s.occ u = some c) (hclaimed : c.phase.isClaimed = true) :
    ((freedByComplete u h c s).occ u).any (fun d => d.phase.isClaimed) = false := by
  refine any_isClaimed_of_holding ?_
  rw [(freedByComplete_keeps s u h c).2.2.holding]
  have hfreed := (returnClosed_holders u s.holding).free (s := struckOff u h s) hc hclaimed fun _ _ => rfl
  exact (hfreed u).trans (if_pos rfl)

theorem SameCore.facts (hsame : SameCore m t) (hepoch : ∀ v, (m.record v).epoch = (s.record v).epoch)
    (hunclaimed : (m.occ u).any (fun d => d.phase.isClaimed) = false) :
    (∀ v, (t.record v).epoch = (s.record v).epoch) ∧ (t.occ u).any (fun d => d.phase.isClaimed) = false := by
  refine ⟨fun v => by rw [hsame.record, hepoch], ?_⟩
  rw [State.occ, hsame.record]
  exact hunclaimed

theorem leaseExpiry_ends_a_drain (hclocked : Clocked s) (hc : s.occ u = some c)
    (hphase : c.phase = .claimed h c.phase.extensions c.phase.members) (hdue : (s.record u).timer = .due)
    (hdraining : (s.host h).presence = .draining) (hall : ∀ e ∈ (s.host h).stack, e.tag = u) :
    ∃ t, exec (.leaseExpiry u) s = .next t ∧
      t.host h = { s.host h with presence := .absent, stack := [], queue := [], overflow := false } ∧
      (∀ g, g ≠ h → StandingKept g s t) ∧ (∀ v, (t.record v).epoch = (s.record v).epoch) ∧
      (t.occ u).any (fun d => d.phase.isClaimed) = false ∧ ReturnCourse s t h none u c ∧
      SameSession s t ∧ t.ports = s.ports ∧ SameBoard s t ∧ AttnSettled t := by
  have hclaimed := isClaimed_of_phase hphase
  obtain ⟨hbeside, hsession, hstanding, hepoch⟩ := leaseReturned_keeps s u h c
  obtain ⟨hcourse, hunclaimed⟩ := leaseReturned_course (h := h) hc hclaimed
  have hexec := exec_leaseExpiry hclocked hc hphase hdue
  obtain ⟨m, hm⟩ : ∃ m, m = leaseReturned u h c s := ⟨_, rfl⟩
  rw [← hm] at hbeside hsession hstanding hepoch hcourse hunclaimed hexec
  have hholder := (hstanding h).trans (congrArg HostContext.standing (withoutEntry_same s h u))
  have hstruck : strikeStep h m = m :=
    if_neg fun h' => absurd (h'.symm.trans ((standing_eq hholder).1.trans hdraining)) nofun
  rw [hstruck] at hexec
  obtain ⟨hboard, hpolicy, hports⟩ := board_of_besideHosts ((drainCheck_besideHosts m h).trans hbeside)
  have hsame : SameCore m (settle (drainCheck h m)) := (sameCore_drainCheck m h).trans (sameCore_settle _)
  obtain ⟨hhost, hkept⟩ := drained_hosts (m := m) (t := settle (drainCheck h m)) hdraining hall hholder
    (fun g hg => (hstanding g).trans (withoutEntry_standing_ne hg)) rfl
  obtain ⟨hepoch', hunclaimed'⟩ := hsame.facts hepoch hunclaimed
  exact ⟨_, hexec, hhost, hkept, hepoch', hunclaimed', hcourse.to_sameCore hsame,
    ⟨(drainCheck_session m h).1.trans hsession, hpolicy⟩, hports, hboard, attnSettled_settle _⟩

/-- Settles O17: each of the three ends by the drain check. -/
theorem theLastEntryEndsADrain : Obligations.TheLastEntryEndsADrain := by
  refine ⟨fun s u c h hclocked hc hphase hdue hdraining hall =>
      leaseExpiry_ends_a_drain hclocked hc hphase hdue hdraining hall,
    fun s h rt tag epoch u c hserves hdraining hvalid hc hall => ?_,
    fun s h rt tag epoch u c hserves hdraining hvalid hc hall => ?_⟩
  · have hclaimed := claimed_of_validToken hvalid hc
    by_cases hrearms : ReArms s c.origin c.again
    · obtain ⟨t, hexec, hsame, hhosts, hsession, hboard, ⟨hreply, hports⟩, hattn⟩ :=
        exec_complete_rearmed hserves (.inr hdraining) hvalid hc hrearms
      have hstruck := fun g => congrArg HostContext.standing (rearm_struckOff_host s u h c g)
      obtain ⟨hhost, hkept⟩ := drained_hosts hdraining hall
        ((hstruck h).trans (congrArg _ (struckOffHost_same s u h)))
        (fun g hg => (hstruck g).trans (congrArg _ (struckOffHost_ne hg))) hhosts
      have hsame' := (sameCore_drainCheck _ h).trans hsame
      have hentered := rearm_struckOff s u h c
      obtain ⟨hepoch, hunclaimed⟩ := hsame'.facts hentered.sameEpochs hentered.unclaimed
      refine ⟨t, hexec, hhost, hkept, hepoch, hunclaimed, fun h' => absurd hrearms h', fun h' => absurd hrearms h',
        fun _ => ⟨⟨hreply, hports⟩, ?_⟩, hsession, hports, hboard, hattn⟩
      obtain ⟨_, _, _, _, rfl⟩ := hsame'
      exact hentered
    · obtain ⟨t, hexec, hsame, hhosts, hsession, hboard, ⟨hreply, hports⟩, hattn⟩ :=
        exec_complete_freed hserves (.inr hdraining) hvalid hc hrearms
      have hstruck := freedByComplete_standing s u h c
      obtain ⟨hhost, hkept⟩ := drained_hosts hdraining hall
        ((hstruck h).trans (congrArg _ (struckOffHost_same s u h)))
        (fun g hg => (hstruck g).trans (congrArg _ (struckOffHost_ne hg))) hhosts
      have hsame' := (sameCore_drainCheck _ h).trans hsame
      have hfreed := tagFreed_freedByComplete (h := h) hc hclaimed
      obtain ⟨hepoch, hunclaimed⟩ := hsame'.facts (freedByComplete_epoch hc) (freedByComplete_unclaimed hc hclaimed)
      refine ⟨t, hexec, hhost, hkept, hepoch, hunclaimed, fun _ => ⟨hreply, hports⟩, fun _ => ?_,
        fun h' => absurd h' hrearms, hsession, hports, hboard, hattn⟩
      obtain ⟨_, _, _, _, rfl⟩ := hsame'
      exact tagFreed_to (fun _ => rfl) rfl rfl rfl rfl hfreed
  · have hclaimed := claimed_of_validToken hvalid hc
    obtain ⟨t, hexec, hsame, hhosts, hsession, hboard, hreplies, hattn⟩ := exec_handback hserves (.inr hdraining) hvalid hc
    obtain ⟨-, -, hstanding, hepoch⟩ := handedBack_keeps s u h
    obtain ⟨hhost, hkept⟩ := drained_hosts hdraining hall ((hstanding h).trans (congrArg _ (withoutEntry_same s h u)))
      (fun g hg => (hstanding g).trans (withoutEntry_standing_ne hg)) hhosts
    have hsame' := (sameCore_drainCheck _ h).trans hsame
    obtain ⟨hepoch', hunclaimed⟩ := hsame'.facts hepoch (handedBack_unclaimed hc hclaimed)
    obtain ⟨hwithdrawn, habandoned, hback⟩ := handbackData_handedBack (h := h) hc hclaimed
    have hreply : ∀ data, handbackData u (handedBack u h s).1 (handedBack u h s).2 = data →
        Replies s t h rt (.handback tag epoch) .ok data := fun data hdata => hdata ▸ hreplies
    exact ⟨t, hexec, hhost, hkept, hepoch', hunclaimed, (returnCourse_handedBack hc hclaimed).to_sameCore hsame',
      fun hoff => hreply _ (hwithdrawn hoff), fun hon hover => hreply _ (habandoned hon hover),
      fun hon hlimit => ⟨fun v d hd honly => hreply _ ((hback hon hlimit).1 v d hd honly),
        fun hnone => hreply _ ((hback hon hlimit).2 hnone)⟩, hsession, hreplies.2, hboard, hattn⟩

end Sys2Proof.Machine
end

section
/-! The revocation of a host's records (section 8.2), and the windows that open when it leaves PRESENT: JOIN of a joined
host (section 8.3) and LEAVE IMMEDIATE (section 8.4.2). -/

namespace Sys2Proof.Machine

variable {s s' t t' m : State} {u v : Tag} {c d : Occurrence} {h : HostId} {rt : RequestTag} {o : Origin}

/-! ### A stack of one -/

/-- A host whose entries all name one record that it holds has that entry alone. -/
theorem HoldingExact.stack_eq_singleton (hs : HoldingExact s) (hc : s.occ u = some c) (hheld : heldBy h c = true)
    (hall : ∀ e ∈ (s.host h).stack, e.tag = u) : (s.host h).stack = [⟨u, c.level⟩] := by
  have hmem : ⟨u, c.level⟩ ∈ (s.host h).stack :=
    (hs.1 h ⟨u, c.level⟩).mpr ((State.holding_eq_some_iff s u h c.level).mpr ⟨c, hc, hheld, rfl⟩)
  cases hstack : (s.host h).stack with
  | nil =>
    rw [hstack] at hmem
    cases hmem
  | cons e rest =>
    have hne := hs.tag_ne hstack
    rw [hstack] at hmem hall
    cases rest with
    | nil => rw [List.mem_singleton.mp hmem]
    | cons f rest => exact absurd ((hall f (by simp)).trans (hall e (by simp)).symm) (hne f (by simp))

theorem revoke_singleton {e : StackEntry} (hstack : (s.host h).stack = [e]) : revoke h s = (handedBack e.tag h s).1 := by
  rw [revoke, hstack]
  rfl

theorem revoke_of_empty (hstack : (s.host h).stack = []) : revoke h s = s := by
  rw [revoke, hstack]
  rfl

theorem revoke_epoch (s : State) (h : HostId) (v : Tag) : ((revoke h s).record v).epoch = (s.record v).epoch := by
  unfold revoke
  generalize (s.host h).stack = l
  induction l generalizing s with
  | nil => rfl
  | cons e l ih => exact (ih (revokeEntry h s e)).trans ((handedBack_keeps s e.tag h).2.2.2 v)

/-- A host with an empty stack holds nothing. -/
theorem HoldingExact.holdsNothing (hs : HoldingExact s) (hstack : (s.host h).stack = []) (hsame : ∀ v, t.holding v = s.holding v) :
    HoldsNothing t h := by
  intro u
  rw [Bool.eq_false_iff]
  intro hheld
  obtain ⟨c, hc, hheld⟩ := Option.any_eq_true _ _ |>.mp hheld
  have hmem : ⟨u, c.level⟩ ∈ (s.host h).stack :=
    (hs.1 h ⟨u, c.level⟩).mpr ((hsame u).symm.trans ((State.holding_eq_some_iff t u h c.level).mpr ⟨c, hc, hheld, rfl⟩))
  rw [hstack] at hmem
  cases hmem

/-! ### JOIN of a joined host -/

theorem HostContext.ext {x y : HostContext} (hpresence : x.presence = y.presence) (hfloor : x.floor = y.floor)
    (hgeneration : x.generation = y.generation) (hstrikes : x.strikes = y.strikes) (hstack : x.stack = y.stack)
    (hqueue : x.queue = y.queue) (hoverflow : x.overflow = y.overflow) : x = y := by
  cases x
  cases y
  simp_all

/-- The state after the revocation and the drop of the session. -/
def revokedAndDropped (h : HostId) (s : State) : State := dropSession h (revoke h s)

theorem revokedAndDropped_keeps (s : State) (h : HostId) : (revokedAndDropped h s).besideHosts = s.besideHosts ∧
    (revokedAndDropped h s).session = (if s.session.any (fun x => decide (x.holder = h)) then none else s.session) ∧
    (∀ g, g ≠ h → ((revokedAndDropped h s).host g).standing = (s.host g).standing) ∧
    ((revokedAndDropped h s).host h).standing = HostContext.standing { s.host h with stack := [] } ∧
    SameCore (revoke h s) (revokedAndDropped h s) := by
  obtain ⟨hbeside, hsession, hhosts⟩ := revoke_keeps s h
  have hstack := revoke_stack s h
  refine ⟨?_, ?_, fun g hg => ?_, ?_, sameCore_dropSession _ _⟩
  · rw [revokedAndDropped, dropSession_eq]
    exact hbeside
  · rw [revokedAndDropped, dropSession_eq, hsession]
  · obtain ⟨hpresence, hfloor, hgeneration, hstrikes, hkept⟩ := hhosts g
    rw [revokedAndDropped, dropSession_host]
    simp only [HostContext.standing, hpresence, hfloor, hgeneration, hstrikes, hkept hg]
  · obtain ⟨hpresence, hfloor, hgeneration, hstrikes, -⟩ := hhosts h
    rw [revokedAndDropped, dropSession_host]
    simp only [HostContext.standing, hpresence, hfloor, hgeneration, hstrikes, hstack]

theorem joinRequest_of_joined (hjoined : (s.host h).presence = .present ∨ (s.host h).presence = .draining) :
    joinRequest h s = (becomePresent h (flush h (revokedAndDropped h s)),
      okWith [((becomePresent h (flush h (revokedAndDropped h s))).host h).generation, byte h.val, Config.partIdentity,
        byte (s.host h).presence.code]) := by
  unfold joinRequest revokedAndDropped
  rcases hjoined with hp | hp <;> rw [hp]

/-- The course of the return of a host's one record. -/
theorem returnCourse_revoke (hs : StacksExact s) (hc : s.occ u = some c) (hheld : heldBy h c = true)
    (hall : ∀ e ∈ (s.host h).stack, e.tag = u) : ReturnCourse s (revoke h s) h none u c := by
  have hclaimed : c.phase.isClaimed = true := ClaimedBy.isClaimed (s := s) ⟨hc, hheld⟩
  rw [revoke_singleton ((stacksExact_iff.mp hs).stack_eq_singleton hc hheld hall)]
  exact returnCourse_handedBack hc hclaimed

/-- Settles O29: the revocation, and a fresh membership. -/
theorem rejoinRevokesAndRestarts : Obligations.RejoinRevokesAndRestarts := by
  intro s h rt hserves hjoined hstacks
  have hcarry := carryOut_of_admitted (s := s) (h := h) (req := .join) (by cases (s.host h).presence <;> rfl)
  rw [performRequest, joinRequest_of_joined hjoined, settleAnswered_of_ok _ rfl] at hcarry
  obtain ⟨hbeside, hsession, hothers, hholder, hcore⟩ := revokedAndDropped_keeps s h
  have hepochs := revoke_epoch s h
  have hcourse := fun u c (hc : s.occ u = some c) (hheld : heldBy h c = true) => returnCourse_revoke hstacks hc hheld
  have hnothing := fun t => (stacksExact_iff.mp hstacks |>.revoke h).holdsNothing (t := t) (revoke_stack s h)
  obtain ⟨k, hk⟩ : ∃ k, k = revokedAndDropped h s := ⟨_, rfl⟩
  rw [← hk] at hbeside hsession hothers hholder hcore hcarry
  obtain ⟨-, -, hgeneration, -, hstack⟩ := standing_eq hholder
  obtain ⟨m, hm⟩ : ∃ m, m = becomePresent h (flush h k) := ⟨_, rfl⟩
  have hhost : m.host h = { presence := .present, floor := none, generation := (s.host h).generation + 1
                            strikes := 0, stack := [], queue := [], overflow := false } := by
    rw [hm, becomePresent, State.host_setHost_same, flush_host_same]
    exact HostContext.ext rfl rfl (congrArg (· + 1) hgeneration) rfl hstack rfl rfl
  have hothers' : ∀ g, g ≠ h → (m.host g).standing = (s.host g).standing := fun g hg => by
    rw [hm, becomePresent, State.host_setHost_ne _ _ _ _ hg, flush_host_ne _ _ _ hg]
    exact hothers g hg
  have hbeside' : m.besideHosts = s.besideHosts := by rw [hm]; exact hbeside
  have hsame : SameCore k m := hm ▸ (sameCore_setHost k h _).trans (sameCore_setHost _ _ _)
  have hsession' : m.session = k.session := by rw [hm]; rfl
  rw [← hm] at hcarry
  obtain ⟨t, hexec, hsame', hhosts, hsession'', hpolicy, hboard, hreplies, hattn⟩ :=
    exec_row_settled (i := .join h rt) rfl hserves hcarry hbeside'
  have hrevoked : SameCore (revoke h s) t := hcore.trans (hsame.trans hsame')
  have hthost : ∀ g, t.host g = m.host g := fun g => by rw [State.host, hhosts, State.host]
  refine ⟨t, hexec, (hthost h).trans hhost, fun g hg => standingKept_of_standing ((congrArg _ (hthost g)).trans (hothers' g hg)),
    hnothing t hrevoked.holding, fun u c hc hheld hall => (hcourse u c hc hheld hall).to_sameCore hrevoked,
    fun u => (congrArg Record.epoch (hrevoked.record u)).trans (hepochs u), hsession''.trans (hsession'.trans hsession), hpolicy, hboard,
    ?_, hattn⟩
  refine (congrArg (Replies s t h rt .join .ok) ?_).mp hreplies
  rw [okWith, hhost]
  rfl

/-! ### Windows that open -/

/-- A record after the preferred host `h` has left PRESENT (R57). -/
def openedRecord (s : State) (h : HostId) (r : Record) : Record :=
  match r.occ with
  | some c =>
    if c.phase = .pendingExcl ∧ (s.termsOf c.origin).preferred = some h then
      { r with timer := .stopped, occ := some { c with phase := .pendingOpen } }
    else r
  | none => r

theorem openedFor_eq (s : State) (h : HostId) (v : Tag) : openedFor s h v = openedRecord s h (s.record v) := by
  unfold openedFor openedRecord State.occ
  cases (s.record v).occ <;> rfl

theorem openedRecord_congr (hdescs : s'.descs = s.descs) (h : HostId) (r : Record) : openedRecord s' h r = openedRecord s h r := by
  unfold openedRecord
  cases r.occ with
  | none => rfl
  | some c => simp only [State.termsOf_of_descs hdescs]

theorem openedRecord_some {r : Record} (hr : r.occ = some d) : openedRecord s h r =
    if d.phase = .pendingExcl ∧ (s.termsOf d.origin).preferred = some h then
      { r with timer := .stopped, occ := some { d with phase := .pendingOpen } } else r := by
  rw [openedRecord, hr]

theorem openedRecord_keeps (s : State) (h : HostId) (r : Record) : (openedRecord s h r).epoch = r.epoch ∧
    (openedRecord s h r).occ.bind Occurrence.holding = r.occ.bind Occurrence.holding := by
  cases hr : r.occ with
  | none => simp [openedRecord, hr]
  | some d =>
    rw [openedRecord_some hr]
    split
    · next hopens => simp [Occurrence.holding, hopens.1]
    · simp [hr]

/-- From `m` to `t` the windows of host `h` have opened; the lists and the tables are kept. -/
structure WindowsOpened (h : HostId) (m t : State) : Prop where
  record : ∀ v, t.record v = openedRecord m h (m.record v)
  lists : t.lists = m.lists
  lines : t.lineSources = m.lineSources
  posted : t.postedSources = m.postedSources
  groups : t.groups = m.groups

theorem windowsOpened_openWindowsOf (h : HostId) (s : State) (hsame : SameCore (openWindowsOf h s) t) : WindowsOpened h s t := by
  have hrecord : ∀ v, t.record v = openedRecord s h (s.record v) := fun v => by
    rw [hsame.record, openWindowsOf_record, openedFor_eq]
  obtain ⟨r, hr⟩ := openWindowsOf_records h s
  obtain ⟨_, _, _, _, rfl⟩ := hsame
  exact ⟨hrecord, by rw [hr], by rw [hr], by rw [hr], by rw [hr]⟩

theorem WindowsOpened.sameEpochs (hopened : WindowsOpened h m t) (v : Tag) : (t.record v).epoch = (m.record v).epoch := by
  rw [hopened.record, (openedRecord_keeps m h _).1]

theorem WindowsOpened.sameHolding (hopened : WindowsOpened h m t) (v : Tag) : t.holding v = m.holding v := by
  rw [State.holding, State.occ, hopened.record, (openedRecord_keeps m h _).2]
  rfl

theorem WindowsOpened.descs (hopened : WindowsOpened h m t) : t.descs = m.descs :=
  State.descs_ext (fun n => by rw [State.line, hopened.lines, State.line])
    (fun n => by rw [State.posted, hopened.posted, State.posted]) fun g => by rw [State.group, hopened.groups, State.group]

theorem WindowsOpened.noWindowFor (hopened : WindowsOpened h m t) : NoWindowFor t h := by
  intro u
  have hterms := fun o => State.termsOf_of_descs hopened.descs o
  rw [State.occ, hopened.record]
  simp only [hterms]
  cases hd : (m.record u).occ with
  | none => simp [openedRecord, hd]
  | some d =>
    rw [openedRecord_some hd]
    split
    · simp
    · next hnot =>
      rw [hd, Option.any_some]
      exact decide_eq_false hnot

/-- A record that has come back, after the windows of `h` have opened. -/
theorem returnedRecord_opened {epoch : Byte} {terms : Terms} {r : Record} (hterms : (s.termsOf c.origin) = terms)
    (hr : ReturnedRecord s none epoch terms c r) : ReturnedRecord s (some h) epoch terms c (openedRecord s h r) := by
  subst hterms
  obtain ⟨hwindow, rfl⟩ | ⟨hwindow, rfl⟩ := returnedRecord_none_iff.mp hr
  · by_cases hpreferred : (s.termsOf c.origin).preferred = some h
    · refine ⟨fun h' => absurd hpreferred h'.2, fun _ => ?_⟩
      rw [openedRecord_some rfl, if_pos ⟨rfl, hpreferred⟩]
    · refine ⟨fun _ => ?_, fun h' => absurd ⟨hwindow, hpreferred⟩ h'⟩
      rw [openedRecord_some rfl, if_neg fun h' => hpreferred h'.2]
  · refine ⟨fun h' => absurd h'.1 hwindow, fun _ => ?_⟩
    rw [openedRecord_some rfl, if_neg fun h' => by cases h'.1]

theorem WindowsOpened.keptFor (hopened : WindowsOpened h m t) (hdescs : m.descs = s.descs)
    (hkept : m.record v = keptFor s none v) : t.record v = keptFor s (some h) v := by
  rw [hopened.record, hkept, openedRecord_congr hdescs]
  exact (openedFor_eq s h v).symm

theorem WindowsOpened.tagAfterFreeing (hopened : WindowsOpened h m t) (hdescs : m.descs = s.descs)
    (ht : TagAfterFreeing s m none u) : TagAfterFreeing s t (some h) u := by
  have hlist : ∀ l, t.list l = m.list l := fun l => by rw [State.list, hopened.lists, State.list]
  have hrecord : t.record u = openedRecord s h (m.record u) := by rw [hopened.record, openedRecord_congr hdescs]
  have hreturned : ∀ (o : Origin) terms seq level merge, s.termsOf o = terms →
      ReturnedRecord s none (s.record u).epoch terms (createdFields o seq level merge none 0) (m.record u) →
      ReturnedRecord s (some h) (s.record u).epoch terms (createdFields o seq level merge none 0) (t.record u) :=
    fun o terms seq level merge hterms hr => by
      rw [hrecord]
      exact returnedRecord_opened hterms hr
  obtain ⟨hfree, hline, hgroup⟩ := ht
  refine ⟨fun hnone => ?_, fun n hn => ?_, fun k hk => ?_⟩
  · obtain ⟨hr, hlists⟩ := hfree hnone
    refine ⟨?_, hopened.lists.trans hlists⟩
    rw [hrecord, hr]
    rfl
  · obtain ⟨hr, hjoined, hothers⟩ := hline n hn
    exact ⟨hreturned (.line n) _ _ _ _ rfl hr, (hlist _).trans hjoined, fun l hl => (hlist l).trans (hothers l hl)⟩
  · obtain ⟨hr, hjoined, hothers⟩ := hgroup k hk
    exact ⟨hreturned (.group k) _ _ _ _ rfl hr, (hlist _).trans hjoined, fun l hl => (hlist l).trans (hothers l hl)⟩

theorem WindowsOpened.sourcesAfterFreeing (hopened : WindowsOpened h m t) (hsources : SourcesAfterFreeing s m) :
    SourcesAfterFreeing s t :=
  ⟨fun n => by rw [State.line, hopened.lines]; exact hsources.1 n, hopened.posted.trans hsources.2⟩

theorem WindowsOpened.tagFreed (hopened : WindowsOpened h m t) (hdescs : m.descs = s.descs)
    (ht : TagFreed s m none u c) : TagFreed s t (some h) u c := by
  obtain ⟨htag, hrecords, hsources, hgroups⟩ := ht
  exact ⟨hopened.tagAfterFreeing hdescs htag, fun v hv => hopened.keptFor hdescs (hrecords v hv),
    hopened.sourcesAfterFreeing hsources, fun g => by rw [State.group, hopened.groups]; exact hgroups g⟩

theorem mergedRecord_gone (hterms : s.termsOf d.origin = s.termsOf c.origin) :
    openedRecord s h (mergedRecord s none h (s.termsOf c.origin) v c d) =
      mergedRecord s (some h) h (s.termsOf c.origin) v c d := by
  rw [openedRecord_some (d := { d with
    merge := min 255 (d.merge + ((returnedFields (s.termsOf c.origin) h c).merge + 1))
    reoffer := max d.reoffer (returnedFields (s.termsOf c.origin) h c).reoffer
    exclusion := excludedAfter (s.termsOf c.origin).route
      (d.exclusion ||| (returnedFields (s.termsOf c.origin) h c).exclusion)
    phase := _ }) rfl]
  unfold mergedRecord
  dsimp only
  rw [hterms]
  by_cases hphase : d.phase = .pendingExcl
  · by_cases hin : (s.termsOf c.origin).preferred.any (fun p => hasHost (excludedAfter (s.termsOf c.origin).route
      (d.exclusion ||| (returnedFields (s.termsOf c.origin) h c).exclusion)) p) = true
    · simp [hphase, hin]
    · by_cases hpreferred : (s.termsOf c.origin).preferred = some h
      · rw [hpreferred, Option.any_some] at hin
        simp [hphase, hpreferred, hin]
      · simp [hphase, hin, hpreferred]
  · simp [hphase]

/-! ### An abandonment after which the origin does not fire -/

theorem firesAgain_congr (hlines : ∀ n, (t.line n).desc = (s.line n).desc ∧ (t.line n).filter = (s.line n).filter)
    (hgroups : ∀ g, (t.group g).collect = (s.group g).collect) (o : Origin) : firesAgain t o = firesAgain s o := by
  cases o with
  | line n => simp only [firesAgain, (hlines n).1, (hlines n).2]
  | group g => simp only [firesAgain, hgroups]
  | posted n => rfl

theorem TagFreed.firesAgain {gone : Option HostId} (ht : TagFreed s t gone u c) (o : Origin) :
    firesAgain t o = Machine.firesAgain s o := by
  obtain ⟨-, -, ⟨hlines, -⟩, hgroups⟩ := ht
  refine firesAgain_congr (fun n => ?_) (fun g => ?_) o
  · rw [hlines, lineAfterFreeing]
    split <;> exact ⟨rfl, rfl⟩
  · rw [hgroups, groupAfterFreeing]
    dsimp only
    split <;> split <;> rfl

theorem collect_of_quiet {g : GroupId} (hquiet : firesAgain s (.group g) = false) : (s.group g).collect = [] := by
  simpa [firesAgain] using hquiet

/-- Where the origin does not fire, nothing follows the freeing. -/
theorem same_of_refired (hquiet : firesAgain s o = false) (hrefired : ∀ w, Refired s t o w) : SameTables s t ∧ SamePool s t := by
  obtain ⟨hposted, hsources, hrest, -, hgroup⟩ := hrefired 0
  have hlines := hsources (.inr hquiet)
  by_cases hg : ∃ g, o = .group g
  · obtain ⟨g, rfl⟩ := hg
    obtain ⟨hothers, hidle, -⟩ := hgroup g rfl
    obtain ⟨hsame, hpool⟩ := hidle (.inr (.inr (.inr (collect_of_quiet hquiet))))
    refine ⟨⟨⟨hlines, hposted⟩, Table.ext_look _ _ fun k => ?_⟩, hpool⟩
    by_cases hk : k = g
    · subst hk
      exact hsame
    · exact hothers k hk
  · obtain ⟨hgroups, hpool⟩ := hrest ⟨fun g ho => hg ⟨g, ho⟩, hquiet⟩
    exact ⟨⟨⟨hlines, hposted⟩, hgroups⟩, hpool⟩

theorem refired_of_same (hquiet : firesAgain s o = false) (htables : SameTables s t) (hpool : SamePool s t) (w : Tag) :
    Refired s t o w := by
  obtain ⟨⟨hlines, hposted⟩, hgroups⟩ := htables
  have hline : ∀ n, t.line n = s.line n := fun n => by rw [State.line, hlines, State.line]
  have hgroup : ∀ g, t.group g = s.group g := fun g => by rw [State.group, hgroups, State.group]
  refine ⟨hposted, fun _ => hlines, fun _ => ⟨hgroups, hpool⟩, fun n hn => ⟨fun k _ => hline k, fun hfires => ?_⟩,
    fun g hg => ⟨fun k _ => hgroup k, fun _ => ⟨hgroup g, hpool⟩, fun _ _ _ hcollect => ?_⟩⟩
  · exact absurd (hquiet.symm.trans hfires) nofun
  · subst hg
    exact absurd (collect_of_quiet hquiet) hcollect

theorem WindowsOpened.abandonedPool (hopened : WindowsOpened h m t) (hdescs : m.descs = s.descs)
    (hquiet : Machine.firesAgain s c.origin = false) (ht : AbandonedPool s m none u c) : AbandonedPool s t (some h) u c := by
  obtain ⟨k, hfreed, -, hrefired⟩ := ht
  obtain ⟨⟨⟨hlines, hposted⟩, hgroups⟩, hrecords, hlists⟩ := same_of_refired (hfreed.firesAgain c.origin ▸ hquiet) hrefired
  have hfreed' : TagFreed s m none u c :=
    tagFreed_to (fun v => by rw [State.record, hrecords, State.record]) hlists hlines hposted hgroups hfreed
  have hopened' : TagFreed s { t with hosts := s.hosts } (some h) u c :=
    tagFreed_to (t := t) (fun _ => rfl) rfl rfl rfl rfl (hopened.tagFreed hdescs hfreed')
  refine ⟨{ t with hosts := s.hosts }, hopened', fun _ => rfl, refired_of_same ?_ ⟨⟨rfl, rfl⟩, rfl⟩ ⟨rfl, rfl⟩⟩
  rw [hopened'.firesAgain, hquiet]

/-- The course of a return where the host leaves PRESENT in the same event. -/
theorem WindowsOpened.returnCourse (hopened : WindowsOpened h m t) (hdescs : m.descs = s.descs)
    (hcourse : ReturnCourse s m h none u c) : ReturnCourse s t h (some h) u c := by
  have hlist : ∀ l, t.list l = m.list l := fun l => by rw [State.list, hopened.lists, State.list]
  have hline : ∀ n, t.line n = m.line n := fun n => by rw [State.line, hopened.lines, State.line]
  have hgroup : ∀ g, t.group g = m.group g := fun g => by rw [State.group, hopened.groups, State.group]
  obtain ⟨hwithdrawn, habandoned, hmerged, hpending⟩ := hcourse
  refine ⟨fun hoff => hopened.tagFreed hdescs (hwithdrawn hoff), fun hon hover hgone => ?_, fun hon hlimit v d hd honly => ?_,
    fun hon hlimit hnone => ?_⟩
  · exact hopened.abandonedPool hdescs (hgone.resolve_left nofun) (habandoned hon hover (.inl rfl))
  · obtain ⟨htag, hrecord, hothers, hsources, hgroups⟩ := hmerged hon hlimit v d hd honly
    refine ⟨hopened.tagAfterFreeing hdescs htag, ?_, fun w hw hwv => hopened.keptFor hdescs (hothers w hw hwv),
      hopened.sourcesAfterFreeing hsources, fun g hg => (hgroup g).trans (hgroups g hg)⟩
    rw [hopened.record, hrecord, openedRecord_congr hdescs]
    exact mergedRecord_gone (congrArg s.termsOf honly.1)
  · obtain ⟨hrecord, hothers, hjoined, hlists, hlines, hposted, hgroups, hcollect⟩ := hpending hon hlimit hnone
    refine ⟨?_, fun v hv => hopened.keptFor hdescs (hothers v hv), (hlist _).trans hjoined,
      fun l hl => (hlist l).trans (hlists l hl), fun n => (hline n).trans (hlines n), hopened.posted.trans hposted,
      fun g hg => (hgroup g).trans (hgroups g hg), fun g hg => by rw [hgroup]; exact hcollect g hg⟩
    rw [hopened.record, openedRecord_congr hdescs]
    exact returnedRecord_opened (congrArg s.termsOf (comesBack_fields s h c).1) hrecord

end Sys2Proof.Machine
end

section
/-! LEAVE IMMEDIATE (section 8.4.2), and the hosts through a revocation. -/

namespace Sys2Proof.Machine

variable {s s' t t' m : State} {u v : Tag} {c d : Occurrence} {h g : HostId} {rt : RequestTag} {o : Origin}

/-! ### LEAVE IMMEDIATE -/

/-- The host is ABSENT, its records revoked, before any window opens. -/
def leftImmediately (h : HostId) (s : State) : State := flush h (setStanding h .absent none (revokedAndDropped h s))

theorem leaveImmediateRequest_eq (s : State) (h : HostId) : leaveImmediateRequest h s =
    (if (s.host h).presence = .present then openWindowsOf h (leftImmediately h s) else leftImmediately h s,
      okWith [byte Presence.absent.code, byte (s.host h).stack.length]) := rfl

theorem leftImmediately_keeps (s : State) (h : HostId) : (leftImmediately h s).besideHosts = s.besideHosts ∧
    (leftImmediately h s).session = (if s.session.any (fun x => decide (x.holder = h)) then none else s.session) ∧
    (leftImmediately h s).host h = { s.host h with
      presence := .absent, floor := none, stack := [], queue := [], overflow := false } ∧
    (∀ g, g ≠ h → StandingKept g s (leftImmediately h s)) ∧ SameCore (revoke h s) (leftImmediately h s) := by
  obtain ⟨hbeside, hsession, hothers, hholder, hcore⟩ := revokedAndDropped_keeps s h
  obtain ⟨k, hk⟩ : ∃ k, k = revokedAndDropped h s := ⟨_, rfl⟩
  rw [leftImmediately, ← hk]
  rw [← hk] at hbeside hsession hothers hholder hcore
  obtain ⟨-, -, hgeneration, hstrikes, hstack⟩ := standing_eq hholder
  refine ⟨hbeside, hsession, ?_, fun g hg => standingKept_of_standing ?_,
    hcore.trans ((sameCore_setHost k h _).trans (sameCore_setHost _ _ _))⟩
  · rw [flush_host_same, setStanding, State.host_setHost_same]
    exact HostContext.ext rfl rfl hgeneration hstrikes hstack rfl rfl
  · rw [flush_host_ne _ _ _ hg, setStanding, State.host_setHost_ne _ _ _ _ hg]
    exact hothers g hg

theorem openWindowsOf_keeps (h : HostId) (s : State) : (openWindowsOf h s).besideHosts = s.besideHosts ∧
    (openWindowsOf h s).hosts = s.hosts ∧ (openWindowsOf h s).session = s.session := by
  obtain ⟨r, hr⟩ := openWindowsOf_records h s
  rw [hr]
  exact ⟨rfl, rfl, rfl⟩

theorem SameCore.descs (hsame : SameCore s t) : t.descs = s.descs := by
  obtain ⟨_, _, _, _, rfl⟩ := hsame
  rfl

/-- Settles O31: the revocation, and the windows of a PRESENT host. -/
theorem leaveImmediateRevokes : Obligations.LeaveImmediateRevokes := by
  intro s h rt hserves hjoined hstacks
  have hcarry := carryOut_of_admitted (s := s) (h := h) (req := .leave 1) (refusal_joined hjoined)
  rw [performRequest, leaveRequest, if_neg (by decide), if_pos rfl, leaveImmediateRequest_eq, settleAnswered_of_ok _ rfl] at hcarry
  obtain ⟨hbeside, hsession, hhost, hothers, hcore⟩ := leftImmediately_keeps s h
  have hepochs := revoke_epoch s h
  have hcourse := fun u c (hc : s.occ u = some c) hheld hall => (returnCourse_revoke hstacks hc hheld hall).to_sameCore hcore
  have hnothing := fun t => ((stacksExact_iff.mp hstacks).revoke h).holdsNothing (t := t) (revoke_stack s h)
  have hdescs : (leftImmediately h s).descs = s.descs := hcore.descs.trans (descs_revoke s h)
  obtain ⟨m, hm⟩ : ∃ m, m = leftImmediately h s := ⟨_, rfl⟩
  rw [← hm] at hbeside hsession hhost hothers hcore hcourse hdescs hcarry
  rcases hjoined with hpresent | hdraining
  · rw [if_pos hpresent] at hcarry
    obtain ⟨hbeside', hhosts', hsession'⟩ := openWindowsOf_keeps h m
    obtain ⟨t, hexec, hsame, hhosts, hsession'', hpolicy, hboard, hreplies, hattn⟩ :=
      exec_row_settled (i := .leaveImmediate h rt) rfl hserves hcarry (hbeside'.trans hbeside)
    have hopened := windowsOpened_openWindowsOf h m hsame
    have hthost : ∀ g, t.host g = m.host g := fun g => by rw [State.host, hhosts, hhosts', State.host]
    refine ⟨t, hexec, (hthost h).trans hhost, fun g hg => ?_,
      hnothing t fun v => (hopened.sameHolding v).trans (hcore.holding v), fun u c hc hheld hall => ?_,
      fun _ => hopened.noWindowFor, fun v => ?_, hsession''.trans (hsession'.trans hsession), hpolicy, hboard, hreplies, hattn⟩
    · rw [StandingKept, hthost]
      exact hothers g hg
    · rw [if_pos hpresent]
      exact hopened.returnCourse hdescs (hcourse u c hc hheld hall)
    · rw [hopened.sameEpochs, hcore.record, hepochs]
  · have hnot : ¬ (s.host h).presence = .present := by simp [hdraining]
    rw [if_neg hnot] at hcarry
    obtain ⟨t, hexec, hsame, hhosts, hsession', hpolicy, hboard, hreplies, hattn⟩ :=
      exec_row_settled (i := .leaveImmediate h rt) rfl hserves hcarry hbeside
    have hthost : ∀ g, t.host g = m.host g := fun g => by rw [State.host, hhosts, State.host]
    refine ⟨t, hexec, (hthost h).trans hhost, fun g hg => ?_,
      hnothing t fun v => (hsame.holding v).trans (hcore.holding v), fun u c hc hheld hall => ?_,
      fun hpresent => absurd hpresent hnot, fun v => ?_, hsession'.trans hsession, hpolicy, hboard, hreplies, hattn⟩
    · rw [StandingKept, hthost]
      exact hothers g hg
    · rw [if_neg hnot]
      exact (hcourse u c hc hheld hall).to_sameCore hsame
    · rw [hsame.record, hcore.record, hepochs]

/-! ### A host beside the returns -/

/-- What every placed notice keeps of a Host Context is kept by a return. -/
theorem returnRecord_hostProperty {P : HostContext → Prop}
    (hP : ∀ x n, x.presence.takesNotices = true → P x → P (x.enqueue n)) (hs : P (s.host g)) (u : Tag) (h : HostId) :
    P ((returnRecord u h s).1.host g) := by
  refine (returnClosed_of_hosts (P := fun t => P (t.host g)) (fun s t hb hs => ?_) (fun s k n hs => ?_) u).returnRecord_any hs h
  · rw [State.host, State.hosts_of_pool hb]
    exact hs
  · rw [place_host]
    split
    · next htakes => exact hP _ n htakes.2 hs
    · exact hs

theorem revoke_hostProperty {P : HostContext → Prop} (hP : ∀ x n, x.presence.takesNotices = true → P x → P (x.enqueue n))
    (hg : g ≠ h) (hs : P (s.host g)) : P ((revoke h s).host g) := by
  unfold revoke
  generalize (s.host h).stack = l
  induction l generalizing s with
  | nil => exact hs
  | cons e l ih =>
    refine ih (returnRecord_hostProperty hP ?_ e.tag h)
    rw [removeEntry_host, withoutEntry_ne hg]
    exact hs

theorem enqueue_prefix {x y : HostContext} (n : Notice) (hxy : x.queue <+: y.queue) : x.queue <+: (y.enqueue n).queue := by
  unfold HostContext.enqueue
  split
  · exact hxy.trans (List.prefix_append _ _)
  · exact hxy

/-! ### The fence (R132) -/

/-- The records of the fenced host have returned. -/
def fencedRevoked (h : HostId) (s : State) : State := revoke h (setStanding h .fenced none s)

/-- The fence up to the windows. -/
def fencedTold (h : HostId) (s : State) : State :=
  dropSession h (placeAll (fun g => decide (g ≠ h)) (.hostFenced h) (placeFenced h (flush h (fencedRevoked h s))))

theorem fence_eq (h : HostId) (s : State) : fence h s = openWindowsOf h (fencedTold h s) := rfl

theorem fencedRevoked_keeps (s : State) (h : HostId) : (fencedRevoked h s).besideHosts = s.besideHosts ∧
    (fencedRevoked h s).session = s.session ∧
    (∀ g, g ≠ h → ((fencedRevoked h s).host g).standing = (s.host g).standing) ∧
    ((fencedRevoked h s).host h).standing =
      HostContext.standing { s.host h with presence := .fenced, floor := none, stack := [] } := by
  obtain ⟨hbeside, hsession, hhosts⟩ := revoke_keeps (setStanding h .fenced none s) h
  have hstack := revoke_stack (setStanding h .fenced none s) h
  have hstanding : (setStanding h .fenced none s).host h = { s.host h with presence := .fenced, floor := none } :=
    State.host_setHost_same _ _ _
  refine ⟨hbeside, hsession, fun g hg => ?_, ?_⟩
  · obtain ⟨hpresence, hfloor, hgeneration, hstrikes, hkept⟩ := hhosts g
    have hg' : (setStanding h .fenced none s).host g = s.host g := State.host_setHost_ne _ _ _ _ hg
    rw [hg'] at hpresence hfloor hgeneration hstrikes hkept
    simp only [HostContext.standing, fencedRevoked, hpresence, hfloor, hgeneration, hstrikes, hkept hg]
  · obtain ⟨hpresence, hfloor, hgeneration, hstrikes, -⟩ := hhosts h
    rw [hstanding] at hpresence hfloor hgeneration hstrikes
    simp only [HostContext.standing, fencedRevoked, hpresence, hfloor, hgeneration, hstrikes, hstack]

theorem sameCore_fencedTold (s : State) (h : HostId) : SameCore (fencedRevoked h s) (fencedTold h s) :=
  (sameCore_setHost (fencedRevoked h s) h _).trans
    ((sameCore_setHost _ _ _).trans ((sameCore_placeAll _ _ _).trans (sameCore_dropSession _ _)))

theorem fencedTold_besides (s : State) (h : HostId) : (fencedTold h s).besideHosts = s.besideHosts ∧
    (fencedTold h s).session = (if s.session.any (fun x => decide (x.holder = h)) then none else s.session) := by
  obtain ⟨hbeside, hsession, -⟩ := fencedRevoked_keeps s h
  obtain ⟨k, hk⟩ : ∃ k, k = fencedRevoked h s := ⟨_, rfl⟩
  rw [fencedTold, ← hk]
  rw [← hk] at hbeside hsession
  obtain ⟨x, hx⟩ := placeAll_eq (fun g => decide (g ≠ h)) (.hostFenced h) (placeFenced h (flush h k))
  rw [hx, dropSession_eq, ← hsession]
  exact ⟨hbeside, rfl⟩

/-- The notices of a fence (R132 steps 3 and 4). -/
theorem fencedTold_host (s : State) (h g : HostId) : (fencedTold h s).host g =
    if g = h then { s.host h with
      presence := .fenced, floor := none, stack := [], queue := [.fenced (s.host h).strikes], overflow := false }
    else if (s.host g).presence.takesNotices = true then ((fencedRevoked h s).host g).enqueue (.hostFenced h)
    else (fencedRevoked h s).host g := by
  obtain ⟨-, -, hothers, hholder⟩ := fencedRevoked_keeps s h
  obtain ⟨k, hk⟩ : ∃ k, k = fencedRevoked h s := ⟨_, rfl⟩
  rw [fencedTold, ← hk, dropSession_host, placeAll_host]
  rw [← hk] at hothers hholder
  by_cases hg : g = h
  · subst hg
    obtain ⟨hpresence, hfloor, hgeneration, hstrikes, hstack⟩ := standing_eq hholder
    rw [if_neg (by simp), if_pos rfl, placeFenced, State.host_setHost_same, flush_host_same]
    exact HostContext.ext hpresence hfloor hgeneration hstrikes hstack
      (congrArg (fun x => [Notice.fenced x]) hstrikes) rfl
  · have hkept : (placeFenced h (flush h k)).host g = k.host g := by
      rw [placeFenced, State.host_setHost_ne _ _ _ _ hg, flush_host_ne _ _ _ hg]
    rw [hkept, if_neg hg, presence_of_standing (hothers g hg)]
    exact if_congr ⟨fun h' => h'.2, fun h' => ⟨decide_eq_true hg, h'⟩⟩ rfl rfl

/-! ### Records that come back one after another -/

theorem comesBack_congr (hterms : t.termsOf c.origin = s.termsOf c.origin)
    (hline : ∀ n, c.origin = .line n → t.line n = s.line n) (h : HostId) : comesBack t h c = comesBack s h c := by
  unfold comesBack
  rw [hterms]
  cases ho : c.origin with
  | line n => simp only [hline n ho]
  | group k => rfl
  | posted n => rfl

/-- As `returnedRecord_opened`, read in a state whose other hosts stand alike. -/
theorem enteredRecord_opened {epoch : Byte} {terms : Terms} {r : Record}
    (hpresence : ∀ g, g ≠ h → (t.host g).presence = (s.host g).presence) (hterms : s.termsOf c.origin = terms)
    (hr : EnteredRecord t epoch terms c r) : ReturnedRecord s (some h) epoch terms c (openedRecord s h r) := by
  by_cases hpreferred : terms.preferred = some h
  · refine ⟨fun h' => absurd hpreferred h'.2, fun _ => ?_⟩
    subst hterms
    obtain ⟨-, rfl⟩ | ⟨-, rfl⟩ := hr
    · rw [openedRecord_some rfl, if_pos ⟨rfl, hpreferred⟩]
    · rw [openedRecord_some rfl, if_neg fun h' => by cases h'.1]
  · have hwindow : WindowHolds t terms c.exclusion ↔ WindowHolds s terms c.exclusion := by
      have hp : ∀ p, terms.preferred = some p → (t.host p).presence = (s.host p).presence := fun p hp =>
        hpresence p fun hph => hpreferred (hph ▸ hp)
      constructor
      · rintro ⟨p, hp', hw, hroute, hexcl, hpres⟩
        exact ⟨p, hp', hw, hroute, hexcl, (hp p hp').symm.trans hpres⟩
      · rintro ⟨p, hp', hw, hroute, hexcl, hpres⟩
        exact ⟨p, hp', hw, hroute, hexcl, (hp p hp').trans hpres⟩
    refine returnedRecord_opened hterms (returnedRecord_none_iff.mpr ?_)
    rw [EnteredRecord, hwindow] at hr
    exact hr

/-- The records of the entries `done` have come back, one after another, and nothing else has happened to the pool. -/
structure ReturnedSoFar (s : State) (h : HostId) (done : List StackEntry) (t : State) : Prop where
  records : ∀ v, (∀ e ∈ done, e.tag ≠ v) → t.record v = s.record v
  back : ∀ e ∈ done, ∀ c, s.occ e.tag = some c → ReturnedRecord s (some h) (s.record e.tag).epoch (s.termsOf c.origin)
    (comesBack s h c) (openedRecord s h (t.record e.tag))
  lists : ∀ l, t.list l = s.list l ++ (done.filter (fun e => decide (e.level = l))).map (fun e => e.tag)
  lines : ∀ n, (∀ e ∈ done, ∀ c, s.occ e.tag = some c → c.origin ≠ .line n) → t.line n = s.line n
  descs : t.descs = s.descs
  hosts : ∀ g, g ≠ h → t.host g = s.host g

theorem ReturnedSoFar.start (s : State) (h : HostId) : ReturnedSoFar s h [] s :=
  ⟨fun _ _ => rfl, nofun, fun l => by simp, fun _ _ => rfl, rfl, fun _ _ => rfl⟩

theorem ReturnedSoFar.of_sameCore {done : List StackEntry} (ht : ReturnedSoFar s h done t) (hsame : SameCore t t')
    (hhosts : ∀ g, g ≠ h → t'.host g = t.host g) : ReturnedSoFar s h done t' := by
  obtain ⟨hrecords, hback, hlists, hlines, hdescs, hkept⟩ := ht
  obtain ⟨_, _, _, _, rfl⟩ := hsame
  exact ⟨hrecords, hback, hlists, hlines, hdescs, fun g hg => (hhosts g hg).trans (hkept g hg)⟩

/-- A record that came back is of the origin it was of. -/
theorem ReturnedSoFar.origin {done : List StackEntry} (ht : ReturnedSoFar s h done t) {e : StackEntry} (he : e ∈ done)
    (hc : s.occ e.tag = some c) (hd : t.occ e.tag = some d) : d.origin = c.origin := by
  obtain ⟨hexcl, hopen⟩ := ht.back e he c hc
  have hopened : ∃ x, (openedRecord s h (t.record e.tag)).occ = some { d with phase := x } := by
    rw [openedRecord_some hd]
    split
    · exact ⟨_, rfl⟩
    · exact ⟨d.phase, hd⟩
  have hreturned : ∃ x, (openedRecord s h (t.record e.tag)).occ = some { comesBack s h c with phase := x } := by
    by_cases hwindow : WindowHolds s (s.termsOf c.origin) (comesBack s h c).exclusion ∧ (s.termsOf c.origin).preferred ≠ some h
    · rw [hexcl hwindow]
      exact ⟨_, rfl⟩
    · rw [hopen hwindow]
      exact ⟨_, rfl⟩
  obtain ⟨x, hx⟩ := hopened
  obtain ⟨y, hy⟩ := hreturned
  have horigin := congrArg Occurrence.origin (Option.some.inj (hx.symm.trans hy))
  exact horigin.trans (comesBack_fields s h c).1

/-- The entries name records that host `h` holds, at their levels. -/
def HeldEntries (s : State) (h : HostId) (l : List StackEntry) : Prop :=
  ∀ e ∈ l, ∃ c, s.occ e.tag = some c ∧ heldBy h c = true ∧ c.level = e.level

/-- One more record comes back. -/
theorem ReturnedSoFar.returnRecord {done : List StackEntry} {e : StackEntry} (ht : ReturnedSoFar s h done t)
    (hall : AllComeBack s h) (hheld : HeldEntries s h (done ++ [e])) (hnew : ∀ f ∈ done, f.tag ≠ e.tag) :
    ReturnedSoFar s h (done ++ [e]) (returnRecord e.tag h t).1 := by
  obtain ⟨c, hc, hheldc, hlevel⟩ := hheld e (by simp)
  obtain ⟨hon, hlimit, hnone, hother⟩ := hall e.tag c hc hheldc
  have hoccs : ∀ v, (∀ f ∈ done, f.tag ≠ v) → t.occ v = s.occ v := fun v hv => by rw [State.occ, ht.records v hv, State.occ]
  have hct : t.occ e.tag = some c := (hoccs e.tag hnew).trans hc
  have hterms := State.termsOf_of_descs ht.descs c.origin
  have horigin : ∀ f ∈ done, ∀ c', s.occ f.tag = some c' → c'.origin ≠ c.origin := fun f hf c' hc' => by
    obtain ⟨c'', hc'', hheld', -⟩ := hheld f (by simp [hf])
    obtain rfl : c'' = c' := Option.some.inj (hc''.symm.trans hc')
    have h' := hother f.tag (hnew f hf)
    rw [hc', Option.all_some, hheld'] at h'
    simpa using h'
  have hnone' : NoPendingRecord t c.origin := fun v => by
    by_cases hv : ∃ f ∈ done, f.tag = v
    · obtain ⟨f, hf, rfl⟩ := hv
      obtain ⟨c', hc', -, -⟩ := hheld f (by simp [hf])
      cases hd : t.occ f.tag with
      | none => rfl
      | some d =>
        rw [Option.all_some, ht.origin hf hc' hd, decide_eq_true (horigin f hf c' hc')]
        rfl
    · rw [hoccs v fun f hf htag => hv ⟨f, hf, htag⟩]
      exact hnone v
  have hline : ∀ n, c.origin = .line n → t.line n = s.line n := fun n hn =>
    ht.lines n fun f hf c' hc' => hn ▸ horigin f hf c' hc'
  obtain ⟨-, hhosts, ⟨hentered, hjoined, hlists, hothers⟩, hlines, -⟩ := pending_returnRecord (h := h) hct
    (ClaimedBy.isClaimed (s := s) ⟨hc, hheldc⟩) ((State.enabledOf_of_descs ht.descs c.origin).trans hon)
    (by rw [hterms]; exact hlimit) hnone'
  rw [hterms, comesBack_congr hterms hline h] at hentered
  obtain ⟨hfield, hlevel', -, -⟩ := comesBack_fields t h c
  rw [hlevel', hlevel] at hjoined hlists
  have hdescs := descs_returnRecord t e.tag h
  obtain ⟨m, hm⟩ : ∃ m, m = (Machine.returnRecord e.tag h t).1 := ⟨_, rfl⟩
  rw [← hm] at hentered hjoined hlists hothers hlines hhosts hdescs ⊢
  refine ⟨fun v hv => ?_, fun f hf c' hc' => ?_, fun l => ?_, fun n hn => ?_, hdescs.trans ht.descs, fun g hg => ?_⟩
  · exact (hothers v (hv e (by simp)).symm).trans (ht.records v fun f hf => hv f (by simp [hf]))
  · rcases List.mem_append.mp hf with hf | hf
    · rw [hothers f.tag (hnew f hf)]
      exact ht.back f hf c' hc'
    · obtain rfl := List.mem_singleton.mp hf
      obtain rfl : c = c' := Option.some.inj (hc.symm.trans hc')
      rw [ht.records f.tag hnew] at hentered
      exact enteredRecord_opened (fun g hg => congrArg HostContext.presence (ht.hosts g hg))
        (congrArg s.termsOf (comesBack_fields s h c).1) hentered
  · by_cases hl : e.level = l
    · subst hl
      rw [hjoined, ht.lists, List.filter_append, List.map_append, List.append_assoc]
      simp
    · rw [hlists l (Ne.symm hl), ht.lists, List.filter_append, List.map_append]
      simp [hl]
  · rw [hlines, if_neg (hn e (by simp) c hc)]
    exact ht.lines n fun f hf => hn f (by simp [hf])
  · rw [State.host, hhosts]
    exact ht.hosts g hg

theorem ReturnedSoFar.revoked {l done : List StackEntry} (ht : ReturnedSoFar s h done t) (hall : AllComeBack s h)
    (hheld : HeldEntries s h (done ++ l)) (hnodup : ((done ++ l).map (fun e => e.tag)).Nodup) :
    ReturnedSoFar s h (done ++ l) (l.foldl (revokeEntry h) t) := by
  induction l generalizing done t with
  | nil => simpa using ht
  | cons e l ih =>
    have hsplit : done ++ e :: l = (done ++ [e]) ++ l := by simp
    rw [hsplit] at hheld hnodup ⊢
    have hnew : ∀ f ∈ done, f.tag ≠ e.tag := fun f hf htag => by
      rw [List.map_append, List.map_append, List.append_assoc, List.nodup_append] at hnodup
      exact hnodup.2.2 f.tag (List.mem_map_of_mem hf) e.tag (by simp) htag
    have hremoved : ReturnedSoFar s h done (removeEntry h e.tag t) :=
      ht.of_sameCore (sameCore_removeEntry t h e.tag) fun g hg => by rw [removeEntry_host, withoutEntry_ne hg]
    exact ih (hremoved.returnRecord hall (fun f hf => hheld f (List.mem_append_left _ hf)) hnew) hheld hnodup

end Sys2Proof.Machine
end

section
/-! The lease expiry that fences its holder (section 8.5). -/

namespace Sys2Proof.Machine

variable {s s' t t' m : State} {u v : Tag} {c d : Occurrence} {h g : HostId}

/-! ### The strike that reaches the limit -/

/-- The strike count has risen (R91). -/
def struck (h : HostId) (s : State) : State := s.setHost h { s.host h with strikes := min 7 ((s.host h).strikes + 1) }

theorem strikeStep_at_limit (hpresent : (s.host h).presence = .present) (hpositive : 0 < s.policy.strikeLimit.val)
    (hreached : s.policy.strikeLimit.val ≤ min 7 ((s.host h).strikes + 1)) : strikeStep h s = fence h (struck h s) := by
  rw [strikeStep, if_pos hpresent, saturate_strikes]
  refine if_pos ?_
  rw [State.host_setHost_same]
  exact ⟨hpositive, hreached⟩

/-! ### The state after the record of the expired lease has returned and the strike is counted -/

/-- The first record has returned, and the strike is counted. -/
def leaseStruck (u : Tag) (h : HostId) (c : Occurrence) (s : State) : State := struck h (leaseReturned u h c s)

theorem leaseStruck_keeps (s : State) (u : Tag) (h : HostId) (c : Occurrence) :
    (leaseStruck u h c s).besideHosts = s.besideHosts ∧ (leaseStruck u h c s).session = s.session ∧
      (∀ g, g ≠ h → ((leaseStruck u h c s).host g).standing = (s.host g).standing) ∧
      ((leaseStruck u h c s).host h).standing = HostContext.standing { s.host h with
        stack := (s.host h).stack.filter (fun e => decide (e.tag ≠ u)), strikes := min 7 ((s.host h).strikes + 1) } ∧
      ∀ v, ((leaseStruck u h c s).record v).epoch = (s.record v).epoch := by
  obtain ⟨hbeside, hsession, hstanding, hepoch⟩ := leaseReturned_keeps s u h c
  obtain ⟨m, hm⟩ : ∃ m, m = leaseReturned u h c s := ⟨_, rfl⟩
  rw [leaseStruck, ← hm]
  rw [← hm] at hbeside hsession hstanding hepoch
  obtain ⟨hpresence, hfloor, hgeneration, hstrikes, hstack⟩ := standing_eq ((hstanding h).trans
    (congrArg _ (withoutEntry_same s h u)))
  refine ⟨hbeside, hsession, fun g hg => ?_, ?_, hepoch⟩
  · rw [struck, State.host_setHost_ne _ _ _ _ hg]
    exact (hstanding g).trans (withoutEntry_standing_ne hg)
  · rw [struck, State.host_setHost_same]
    simp only [HostContext.standing, hpresence, hfloor, hgeneration, hstrikes, hstack]

theorem HoldingExact.leaseReturned (hs : HoldingExact s) (hc : ClaimedBy s h u c) : HoldingExact (leaseReturned u h c s) := by
  have hplaced : HoldingExact (place h (.revoked u c.origin c.seq) s) :=
    hs.of_same (fun g => (standing_eq (place_standing s h g _)).2.2.2.2) (sameCore_place s h _).holding
  have hclaimed : ClaimedBy (place h (.revoked u c.origin c.seq) s) h u c := by
    refine ⟨?_, hc.2⟩
    rw [State.occ, (sameCore_place s h _).record]
    exact hc.1
  rw [Machine.leaseReturned, leaseRevoked, place_removeEntry]
  exact hplaced.returnEntry hclaimed

theorem HoldingExact.fencedRevoked (hs : HoldingExact s) (h : HostId) : HoldingExact (fencedRevoked h s) := by
  have hstanding : HoldingExact (setStanding h .fenced none s) := hs.of_same (fun g => ?_) fun _ => rfl
  · exact hstanding.revoke h
  by_cases hg : g = h
  · subst hg
    rw [setStanding, State.host_setHost_same]
  · rw [setStanding, State.host_setHost_ne _ _ _ _ hg]

theorem HoldingExact.struck (hs : HoldingExact s) (h : HostId) : HoldingExact (struck h s) := by
  refine hs.of_same (fun g => ?_) fun _ => rfl
  by_cases hg : g = h
  · subst hg
    rw [Machine.struck, State.host_setHost_same]
  · rw [Machine.struck, State.host_setHost_ne _ _ _ _ hg]

/-- The lease expiry that fences. -/
theorem exec_leaseExpiry_fences (hclocked : Clocked s) (hc : s.occ u = some c)
    (hphase : c.phase = .claimed h c.phase.extensions c.phase.members) (hdue : (s.record u).timer = .due)
    (hpresent : (s.host h).presence = .present) (hpositive : 0 < s.policy.strikeLimit.val)
    (hreached : s.policy.strikeLimit.val ≤ min 7 ((s.host h).strikes + 1)) :
    exec (.leaseExpiry u) s = .next (settle (openWindowsOf h (fencedTold h (leaseStruck u h c s)))) := by
  obtain ⟨hbeside, -, hstanding, -⟩ := leaseReturned_keeps s u h c
  have hpolicy := (board_of_besideHosts hbeside).2.1
  obtain ⟨hpresence, -, -, hstrikes, -⟩ := standing_eq ((hstanding h).trans (congrArg _ (withoutEntry_same s h u)))
  have hstep : strikeStep h (leaseReturned u h c s) = openWindowsOf h (fencedTold h (leaseStruck u h c s)) := by
    rw [strikeStep_at_limit (hpresence.trans hpresent) (by rw [hpolicy]; exact hpositive)
      (by rw [hpolicy, hstrikes]; exact hreached), fence_eq]
    rfl
  have hholder : (openWindowsOf h (fencedTold h (leaseStruck u h c s))).host h =
      (fencedTold h (leaseStruck u h c s)).host h := by
    rw [State.host, (openWindowsOf_keeps h _).2.1, State.host]
  rw [exec_leaseExpiry hclocked hc hphase hdue, hstep]
  refine congrArg (fun x => Host.Outcome.next (settle x)) (if_neg fun h' => ?_)
  rw [hholder, fencedTold_host, if_pos rfl] at h'
  exact absurd h'.1 nofun

/-! ### All come back -/

/-- The order in which the entries leave the stack does not show in the lists, which take one entry per level. -/
theorem filter_level_cons {l : List StackEntry} (hsorted : l.Pairwise (fun upper lower => upper.level < lower.level))
    {e : StackEntry} (he : e ∈ l) (hunique : ∀ f ∈ l, f.tag = e.tag → f = e) (k : Level) :
    (e :: l.filter (fun f => decide (f.tag ≠ e.tag))).filter (fun f => decide (f.level = k)) =
      l.filter (fun f => decide (f.level = k)) := by
  obtain ⟨before, after, rfl⟩ := List.append_of_mem he
  obtain ⟨-, hafter, hbefore⟩ := List.pairwise_append.mp hsorted
  have hlt : ∀ f ∈ before, f.level < e.level := fun f hf => hbefore f hf e (by simp)
  have hgt : ∀ f ∈ after, e.level < f.level := fun f hf => (List.pairwise_cons.mp hafter).1 f hf
  have hne : ∀ f ∈ before ++ after, f.tag ≠ e.tag := fun f hf htag => by
    have hfe : f = e := hunique f (by simp only [List.mem_append, List.mem_cons] at hf ⊢; tauto) htag
    subst hfe
    rcases List.mem_append.mp hf with hf | hf
    · exact lt_irrefl _ (hlt f hf)
    · exact lt_irrefl _ (hgt f hf)
  have hrest : (before ++ e :: after).filter (fun f => decide (f.tag ≠ e.tag)) = before ++ after := by
    rw [List.filter_append, List.filter_cons_of_neg (by simp), ← List.filter_append]
    exact List.filter_eq_self.mpr fun f hf => decide_eq_true (hne f hf)
  rw [hrest]
  by_cases hk : e.level = k
  · subst hk
    have hb : before.filter (fun f => decide (f.level = e.level)) = [] :=
      List.filter_eq_nil_iff.mpr fun f hf h' => absurd (hlt f hf) (by simp [of_decide_eq_true h'])
    have ha : after.filter (fun f => decide (f.level = e.level)) = [] :=
      List.filter_eq_nil_iff.mpr fun f hf h' => absurd (hgt f hf) (by simp [of_decide_eq_true h'])
    simp [List.filter_append, hb, ha]
  · simp [List.filter_append, hk]

theorem HoldingExact.heldEntries (hs : HoldingExact s) (h : HostId) : HeldEntries s h (s.host h).stack := fun e he => by
  obtain ⟨c, ⟨hc, hheld⟩, hlevel⟩ := hs.claimedBy_of_mem he
  exact ⟨c, hc, hheld, hlevel⟩

theorem HoldingExact.entry_unique (hs : HoldingExact s) {e f : StackEntry} (he : e ∈ (s.host h).stack)
    (hf : f ∈ (s.host h).stack) (htag : f.tag = e.tag) : f = e := by
  obtain ⟨c, hc, -, hce⟩ := hs.heldEntries h e he
  obtain ⟨d, hd, -, hdf⟩ := hs.heldEntries h f hf
  obtain rfl : c = d := Option.some.inj (hc.symm.trans (htag ▸ hd))
  cases e
  cases f
  simp_all

theorem HoldingExact.nodup_tags (hs : HoldingExact s) (h : HostId) : ((s.host h).stack.map (fun e => e.tag)).Nodup := by
  rw [List.Nodup, List.pairwise_map]
  refine (hs.2 h).imp_of_mem fun {e f} he hf hlt htag => ?_
  have hef : e = f := hs.entry_unique hf he htag
  exact lt_irrefl _ (hef ▸ hlt)

/-- Where every record comes back, the expiry and the fence bring them back one after another. -/
theorem returnedSoFar_fence (hs : HoldingExact s) (hc : s.occ u = some c) (hheld : heldBy h c = true)
    (hall : AllComeBack s h) : ReturnedSoFar s h
      (⟨u, c.level⟩ :: (s.host h).stack.filter (fun e => decide (e.tag ≠ u))) (fencedRevoked h (leaseStruck u h c s)) := by
  have hmem : ⟨u, c.level⟩ ∈ (s.host h).stack :=
    (hs.1 h ⟨u, c.level⟩).mpr ((State.holding_eq_some_iff s u h c.level).mpr ⟨c, hc, hheld, rfl⟩)
  have hrevoked : ReturnedSoFar s h [] (leaseRevoked u h c s) :=
    (ReturnedSoFar.start s h).of_sameCore (sameCore_leaseRevoked s u h c) fun g hg => by
      rw [leaseRevoked, place_host, if_neg fun h' => hg h'.1, removeEntry_host, withoutEntry_ne hg]
  have hfirst : ReturnedSoFar s h [⟨u, c.level⟩] (leaseReturned u h c s) :=
    hrevoked.returnRecord (e := ⟨u, c.level⟩) hall (fun e he => by
      obtain rfl := List.mem_singleton.mp he
      exact ⟨c, hc, hheld, rfl⟩) nofun
  have hstruck : ReturnedSoFar s h [⟨u, c.level⟩] (setStanding h .fenced none (leaseStruck u h c s)) :=
    hfirst.of_sameCore ((sameCore_setHost _ _ _).trans (sameCore_setHost _ _ _)) fun g hg => by
      rw [setStanding, State.host_setHost_ne _ _ _ _ hg, leaseStruck, struck, State.host_setHost_ne _ _ _ _ hg]
  have hstack : ((setStanding h .fenced none (leaseStruck u h c s)).host h).stack =
      (s.host h).stack.filter (fun e => decide (e.tag ≠ u)) := by
    rw [setStanding, State.host_setHost_same]
    exact (standing_eq (leaseStruck_keeps s u h c).2.2.2.1).2.2.2.2
  rw [fencedRevoked, revoke, hstack]
  refine hstruck.revoked hall (fun e he => ?_) ?_
  · rcases List.mem_append.mp he with he | he
    · obtain rfl := List.mem_singleton.mp he
      exact ⟨c, hc, hheld, rfl⟩
    · exact hs.heldEntries h e (List.mem_filter.mp he).1
  · refine List.nodup_cons.mpr ⟨fun h' => ?_, (hs.nodup_tags h).sublist (List.filter_sublist.map _)⟩
    obtain ⟨e, he, htag⟩ := List.mem_map.mp h'
    exact of_decide_eq_true (List.mem_filter.mp he).2 htag

/-- R132: every record is back in PENDING. -/
theorem allReturned_of_returnedSoFar (hs : HoldingExact s) {r : State} {e : StackEntry} (he : e ∈ (s.host h).stack)
    (hr : ReturnedSoFar s h (e :: (s.host h).stack.filter (fun f => decide (f.tag ≠ e.tag))) r) (hsame : SameCore r m)
    (hopened : WindowsOpened h m t) : AllReturned s t h := by
  have hdescs : m.descs = s.descs := hsame.descs.trans hr.descs
  have hrecord : ∀ v, t.record v = openedRecord s h (r.record v) := fun v => by
    rw [hopened.record, openedRecord_congr hdescs, hsame.record]
  refine ⟨fun l => ?_, fun v c hc hheld => ?_, fun v hnot => ?_⟩
  · have hlist : t.list l = r.list l := by
      obtain ⟨_, _, _, _, rfl⟩ := hsame
      rw [State.list, hopened.lists, State.list]
    rw [hlist, hr.lists, filter_level_cons (hs.2 h) he fun f hf htag => hs.entry_unique he hf htag]
  · have hmem : (⟨v, c.level⟩ : StackEntry) ∈ (s.host h).stack :=
      (hs.1 h ⟨v, c.level⟩).mpr ((State.holding_eq_some_iff s v h c.level).mpr ⟨c, hc, hheld, rfl⟩)
    have hdone : (⟨v, c.level⟩ : StackEntry) ∈ e :: (s.host h).stack.filter (fun f => decide (f.tag ≠ e.tag)) := by
      by_cases htag : v = e.tag
      · exact List.mem_cons.mpr (.inl (hs.entry_unique he hmem htag))
      · exact List.mem_cons_of_mem _ (List.mem_filter.mpr ⟨hmem, decide_eq_true htag⟩)
    rw [hrecord]
    exact hr.back _ hdone c hc
  · rw [hrecord, openedFor_eq, hr.records v fun f hf htag => ?_]
    have hf' : f ∈ (s.host h).stack := by
      rcases List.mem_cons.mp hf with rfl | hf
      · exact he
      · exact (List.mem_filter.mp hf).1
    obtain ⟨c, hc, hheld, -⟩ := hs.heldEntries h f hf'
    rw [← htag, hc, Option.any_some, hheld] at hnot
    cases hnot

/-! ### The other hosts -/

theorem leaseStruck_hostProperty {P : HostContext → Prop} (hP : ∀ x n, x.presence.takesNotices = true → P x → P (x.enqueue n))
    (hg : g ≠ h) (hs : P (s.host g)) (u : Tag) (c : Occurrence) : P ((fencedRevoked h (leaseStruck u h c s)).host g) := by
  refine revoke_hostProperty hP hg ?_
  rw [setStanding, State.host_setHost_ne _ _ _ _ hg, leaseStruck, struck, State.host_setHost_ne _ _ _ _ hg]
  refine returnRecord_hostProperty hP ?_ u h
  rw [leaseRevoked, place_host, if_neg fun h' => hg h'.1, removeEntry_host, withoutEntry_ne hg]
  exact hs

/-- HOST_FENCED is the last notice, or is dropped at the full queue. -/
theorem lastNotice_enqueue {x y : HostContext} (n : Notice) (hxy : x.queue <+: y.queue) :
    x.queue.isPrefixOf (y.enqueue n).queue = true ∧
      (x.queue.length < (y.enqueue n).queue.length ∧ (y.enqueue n).queue.getLast? = some n ∨
        8 ≤ (y.enqueue n).queue.length ∧ (y.enqueue n).overflow = true) := by
  refine ⟨List.isPrefixOf_iff_prefix.mpr (enqueue_prefix n hxy), ?_⟩
  have hlength := hxy.length_le
  obtain ⟨-, he⟩ | ⟨hfull, he⟩ := enqueue_cases y n <;> rw [he]
  · refine .inl ⟨?_, by simp⟩
    rw [List.length_append, List.length_singleton]
    omega
  · exact .inr ⟨hfull, rfl⟩

/-- ATTN settles, and nothing else changes. -/
theorem exists_settled (hboard : SameBoard s m) (hpolicy : m.policy = s.policy) (hports : m.ports = s.ports) :
    ∃ t, settle m = t ∧ SameCore m t ∧ t.hosts = m.hosts ∧ t.session = m.session ∧ SameBoard s t ∧ t.policy = s.policy ∧
      t.ports = s.ports ∧ AttnSettled t :=
  ⟨_, rfl, sameCore_settle m, rfl, rfl, hboard, hpolicy, hports, attnSettled_settle m⟩

/-- Settles O16: the first return, the strike, then the fence. -/
theorem leaseExpiryFencesTheHolder : Obligations.LeaseExpiryFencesTheHolder := by
  intro s u c h hclocked hc hphase hdue hpresent hstacks hpositive hreached
  have hs := stacksExact_iff.mp hstacks
  have hclaimed := isClaimed_of_phase hphase
  have hheld : heldBy h c = true := by rw [heldBy, hphase]; exact decide_eq_true rfl
  have hexec := exec_leaseExpiry_fences hclocked hc hphase hdue hpresent hpositive hreached
  obtain ⟨hbeside, hsession, hothers, hholder, hepoch⟩ := leaseStruck_keeps s u h c
  obtain ⟨hcourse, -⟩ := leaseReturned_course (h := h) hc hclaimed
  have hexact : HoldingExact (fencedRevoked h (leaseStruck u h c s)) :=
    ((hs.leaseReturned ⟨hc, hheld⟩).struck h).fencedRevoked h
  have hall := returnedSoFar_fence (h := h) hs hc hheld
  have hproperty := fun (P : HostContext → Prop) hP g hg hsg =>
    leaseStruck_hostProperty (P := P) (s := s) (g := g) (h := h) hP hg hsg u c
  have hdescs : (leaseStruck u h c s).descs = s.descs :=
    (sameCore_setHost _ _ _).descs.trans ((descs_returnRecord _ _ _).trans (sameCore_leaseRevoked s u h c).descs)
  have hcourse' : ReturnCourse s (leaseStruck u h c s) h none u c := hcourse.to_sameCore (sameCore_setHost _ _ _)
  obtain ⟨k, hk⟩ : ∃ k, k = leaseStruck u h c s := ⟨_, rfl⟩
  rw [← hk] at hexec hbeside hsession hothers hholder hepoch hexact hall hproperty hdescs hcourse'
  obtain ⟨hbeside', hsession'⟩ := fencedTold_besides k h
  obtain ⟨-, -, hothers', -⟩ := fencedRevoked_keeps k h
  have hcore := sameCore_fencedTold k h
  have hepoch' : ∀ v, ((fencedRevoked h k).record v).epoch = (s.record v).epoch := fun v =>
    (revoke_epoch (setStanding h .fenced none k) h v).trans (hepoch v)
  have hhosts := fencedTold_host k h
  have hempty : ((fencedRevoked h k).host h).stack = [] := revoke_stack _ _
  have hrevoked : (∀ e ∈ (s.host h).stack, e.tag = u) → SameCore k (fencedRevoked h k) := fun hone => by
    have hstack : ((setStanding h .fenced none k).host h).stack = [] := by
      rw [setStanding, State.host_setHost_same]
      exact (standing_eq hholder).2.2.2.2.trans (stack_emptied hone)
    rw [fencedRevoked, revoke_of_empty hstack]
    exact sameCore_setHost _ _ _
  have hdescs' : (fencedRevoked h k).descs = s.descs :=
    (descs_revoke _ h).trans ((sameCore_setHost k h _).descs.trans hdescs)
  obtain ⟨hbeside'', hhosts'', hsession''⟩ := openWindowsOf_keeps h (fencedTold h k)
  obtain ⟨hboard, hpolicy, hports⟩ := board_of_besideHosts (hbeside''.trans (hbeside'.trans hbeside))
  obtain ⟨r, hr⟩ : ∃ r, r = fencedRevoked h k := ⟨_, rfl⟩
  obtain ⟨m, hm⟩ : ∃ m, m = fencedTold h k := ⟨_, rfl⟩
  rw [← hr] at hexact hall hproperty hothers' hcore hepoch' hhosts hempty hrevoked hdescs'
  rw [← hm] at hexec hsession' hcore hhosts hhosts'' hsession'' hboard hpolicy hports
  obtain ⟨t, ht, hsettled, hthosts, htsession, htboard, htpolicy, htports, htattn⟩ :=
    exists_settled hboard hpolicy hports
  have hopened := windowsOpened_openWindowsOf h m hsettled
  have hthost : ∀ g, t.host g = m.host g := fun g => by rw [State.host, hthosts, hhosts'', State.host]
  have hother : ∀ g, g ≠ h → t.host g = if (s.host g).presence.takesNotices = true then
      (r.host g).enqueue (.hostFenced h) else r.host g := fun g hg => by
    rw [hthost, hhosts, if_neg hg, presence_of_standing (hothers g hg)]
  have hstandings : ∀ g, g ≠ h → (r.host g).standing = (s.host g).standing := fun g hg => (hothers' g hg).trans (hothers g hg)
  rw [ht] at hexec
  refine ⟨t, hexec, ?_, fun g hg => standingKept_of_standing ?_, fun g hg htakes => ?_, fun g hg hnot => ?_,
    hexact.holdsNothing hempty fun v => (hopened.sameHolding v).trans (hcore.holding v), hopened.noWindowFor,
    fun hone => hopened.returnCourse (hcore.descs.trans hdescs') (hcourse'.to_sameCore ((hrevoked hone).trans hcore)),
    fun hback => ⟨?_, fun g hg htakes => ?_⟩, ?_, htpolicy, fun v => ?_, htports, htboard, htattn⟩
  · obtain ⟨-, -, hgeneration, hstrikes, -⟩ := standing_eq hholder
    rw [hthost, hhosts, if_pos rfl]
    exact HostContext.ext rfl rfl hgeneration hstrikes rfl (congrArg (fun x => [Notice.fenced x]) hstrikes) rfl
  · rw [hother g hg]
    split
    · exact (enqueue_standing _ _).trans (hstandings g hg)
    · exact hstandings g hg
  · rw [hother g hg, if_pos (takesNotices_iff.mpr htakes)]
    exact lastNotice_enqueue _ (hproperty (fun x => (s.host g).queue <+: x.queue) (fun x n _ => enqueue_prefix n) g hg
      List.prefix_rfl)
  · have hquiet : ¬ (s.host g).presence.takesNotices = true := by
      rcases hnot with hp | hp <;> simp [hp, Presence.takesNotices]
    rw [hother g hg, if_neg hquiet]
    exact hproperty (fun x => x = s.host g) (fun x n htakes hx => absurd (hx ▸ htakes) hquiet) g hg rfl
  · have hmem : ⟨u, c.level⟩ ∈ (s.host h).stack :=
      (hs.1 h ⟨u, c.level⟩).mpr ((State.holding_eq_some_iff s u h c.level).mpr ⟨c, hc, hheld, rfl⟩)
    exact allReturned_of_returnedSoFar hs hmem (hall hback) hcore hopened
  · rw [hother g hg, if_pos (takesNotices_iff.mpr htakes), (hall hback).hosts g hg]
    rfl
  · rw [htsession, hsession'', hsession', hsession]
  · rw [hopened.sameEpochs, hcore.record, hepoch']

end Sys2Proof.Machine
end

section
/-! COMMIT: the checks, and the application of the whole list (sections 10.4.1 and 10.4.2). -/

namespace Sys2Proof.Machine

variable {s s' t t' m : State} {u v : Tag} {c d : Occurrence} {h g : HostId} {rt : RequestTag} {x : Session}

/-! ### The checks (R163) -/

theorem movesToFull_eq (s : State) (staged : List StagedEntry) (old new : Option GroupId) :
    (groupIds.any fun g => decide (new = some g) && decide (old ≠ some g) &&
      decide (8 < (lineIds.filter (fun n => decide (s.groupAfter staged n = some g))).length)) =
      s.movesToFull staged old new := by
  cases new with
  | none => simp [State.movesToFull]
  | some k =>
    rw [Bool.eq_iff_iff, List.any_eq_true]
    simp only [State.movesToFull, State.overfull, List.countP_eq_length_filter, Config.groupCapacity, Bool.and_eq_true,
      decide_eq_true_eq, Option.some.injEq]
    constructor
    · rintro ⟨g, -, ⟨rfl, hold⟩, hfull⟩
      exact ⟨hold, hfull⟩
    · rintro ⟨hold, hfull⟩
      exact ⟨k, List.mem_finRange k, ⟨rfl, hold⟩, hfull⟩

theorem failsCheck_eq (s : State) (staged : List StagedEntry) (e : StagedEntry) :
    failsCheck s staged e = (s.entryFailure staged e).map ConfigFailure.code := by
  cases e with
  | group g d => rfl
  | policy p => rfl
  | line n d =>
    simp only [failsCheck, State.entryFailure, movesToFull_eq]
    by_cases hfull : s.movesToFull staged (s.line n).desc.group d.group = true
    · simp [hfull, ConfigFailure.code]
    · by_cases hlive : s.liveRecordsFail n (s.line n).desc d = true
      · rw [if_neg hfull, if_neg hfull, if_pos hlive, if_pos]
        · rfl
        · simpa [State.liveRecordsFail] using hlive
      · rw [if_neg hfull, if_neg hfull, if_neg hlive, if_neg]
        · rfl
        · simpa [State.liveRecordsFail] using hlive
  | posted n d =>
    simp only [failsCheck, State.entryFailure, movesToFull_eq]
    by_cases hfull : s.movesToFull staged (s.posted n).desc.group d.group = true
    · simp [hfull, ConfigFailure.code]
    · rw [if_neg hfull, if_neg hfull]
      cases d.group <;> rfl

theorem firstFailure_eq_some {l es : List StagedEntry} {why : ConfigFailure} {i : Nat}
    (hfails : es[i]?.bind (s.entryFailure l) = some why) (hbefore : ∀ j, j < i → es[j]?.bind (s.entryFailure l) = none) (k : Nat) :
    s.firstFailure l k es = some (k + i, why) := by
  induction es generalizing i k with
  | nil => simp at hfails
  | cons e es ih =>
    cases i with
    | zero =>
      have he : s.entryFailure l e = some why := by simpa using hfails
      simp [State.firstFailure, he]
    | succ i =>
      have he : s.entryFailure l e = none := by simpa using hbefore 0 (Nat.succ_pos i)
      have hrest := ih (i := i) (by simpa using hfails) (fun j hj => by simpa using hbefore (j + 1) (Nat.succ_lt_succ hj)) (k + 1)
      rw [State.firstFailure, he, hrest, Nat.add_right_comm, Nat.add_assoc]

/-! ### The request -/

/-- The session timer is restarted (R153). -/
def sessionRestarted (x : Session) (s : State) : State := { s with session := some (x.restarted s) }

theorem commitRequest_of_holder (hopen : s.session = some x) (hholder : x.holder = h) : commitRequest h s =
    match (sessionRestarted x s).firstFailure x.staging 0 x.staging with
    | some (i, why) => (sessionRestarted x s, { code := .badConfig, data := [byte i, byte why.code] })
    | none => (applyCommit h x.staging (sessionRestarted x s), okWith [byte x.staging.length]) := by
  rw [commitRequest, withSession_of_holder hopen hholder]
  rfl

theorem firstFailure_restarted (x : Session) (s : State) (l es : List StagedEntry) (k : Nat) :
    (sessionRestarted x s).firstFailure l k es = s.firstFailure l k es := by
  have hentry : ∀ e, (sessionRestarted x s).entryFailure l e = s.entryFailure l e := fun e => by cases e <;> rfl
  induction es generalizing k with
  | nil => rfl
  | cons e es ih => simp only [State.firstFailure, hentry, ih]

/-- The entries applied one after another (R164 step 1). -/
def applied (x : Session) (s : State) : State := x.staging.foldl (applyEntry x.staging) (sessionRestarted x s)

theorem applyEntry_besides (l : List StagedEntry) (s : State) (e : StagedEntry) :
    SameBoard s (applyEntry l s e) ∧ (applyEntry l s e).hosts = s.hosts ∧ (applyEntry l s e).ports = s.ports ∧
      (applyEntry l s e).session = s.session := by
  have hpool : ∀ t : State, t.besidePool = s.besidePool →
      SameBoard s t ∧ t.hosts = s.hosts ∧ t.ports = s.ports ∧ t.session = s.session := fun t ht => by
    obtain ⟨hhosts, hboard, ⟨hsession, -⟩, hports⟩ := elsewhere_of_besidePool ht
    exact ⟨hboard, hhosts, hports, hsession⟩
  cases e with
  | line n d => exact hpool _ (applyLine_besidePool n d s)
  | posted n d => exact hpool _ (applyPosted_besidePool n d s)
  | group g d => exact hpool _ (applyGroup_besidePool l g d s)
  | policy p => exact ⟨⟨rfl, rfl, rfl, rfl, rfl, rfl, rfl⟩, rfl, rfl, rfl⟩

theorem applyEntries_besides (l es : List StagedEntry) (s : State) :
    SameBoard s (es.foldl (applyEntry l) s) ∧ (es.foldl (applyEntry l) s).hosts = s.hosts ∧
      (es.foldl (applyEntry l) s).ports = s.ports := by
  induction es generalizing s with
  | nil => exact ⟨⟨rfl, rfl, rfl, rfl, rfl, rfl, rfl⟩, rfl, rfl⟩
  | cons e es ih =>
    obtain ⟨⟨hrefclk, hdivider, hrstn, hpower, hraw, hchoices, hpending⟩, hhosts, hports, -⟩ := applyEntry_besides l s e
    obtain ⟨⟨hrefclk', hdivider', hrstn', hpower', hraw', hchoices', hpending'⟩, hhosts', hports'⟩ := ih (applyEntry l s e)
    exact ⟨⟨hrefclk'.trans hrefclk, hdivider'.trans hdivider, hrstn'.trans hrstn, hpower'.trans hpower, hraw'.trans hraw,
      hchoices'.trans hchoices, hpending'.trans hpending⟩, hhosts'.trans hhosts, hports'.trans hports⟩

/-- The notice of a commit goes to every other PRESENT host (R164). -/
def tellsCommit (s : State) (h g : HostId) : Bool := decide (g ≠ h) && decide ((s.host g).presence = .present)

theorem exec_commit_refused {i : Nat} {why : ConfigFailure} (hserves : Serves s h rt .commit)
    (hpresent : (s.host h).presence = .present) (hopen : s.session = some x) (hholder : x.holder = h)
    (hfails : s.firstFailure x.staging 0 x.staging = some (i, why)) :
    ∃ t, exec (.commit h rt) s = .next t ∧ t.session = some (x.restarted s) ∧ t.policy = s.policy ∧ SameTables s t ∧
      SamePool s t ∧ t.hosts = s.hosts ∧ t.attn = s.attn ∧ SameBoard s t ∧
      Replies s t h rt .commit .badConfig [byte i, byte why.code] := by
  have hcarry : carryOut h .commit s =
      ({ s with session := some (x.restarted s) }, { code := .badConfig, data := [byte i, byte why.code] }) := by
    rw [carryOut_of_present s h .commit hpresent, performRequest, commitRequest_of_holder hopen hholder,
      firstFailure_restarted, hfails]
    exact settleAnswered_of_refused (sessionRestarted x s) (a := { code := .badConfig, data := [byte i, byte why.code] }) nofun
  exact exec_row_session (c := .commit h rt) (a := { code := .badConfig, data := [byte i, byte why.code] }) rfl hserves hcarry

/-- A commit that passes its checks: the state after its entries, told to the other hosts. -/
theorem exec_commit_applied (hserves : Serves s h rt .commit) (hpresent : (s.host h).presence = .present)
    (hopen : s.session = some x) (hholder : x.holder = h) (hpasses : ∀ e ∈ x.staging, failsCheck s x.staging e = none) :
    ∃ t, exec (.commit h rt) s = .next t ∧ SameCore (applied x s) t ∧ t.session = none ∧ SameBoard s t ∧
      Replies s t h rt .commit .ok [byte x.staging.length] ∧ AttnSettled t ∧
      ∀ g, t.host g = if tellsCommit s h g = true then (s.host g).enqueue (.configCommitted h x.staging.length) else s.host g := by
  have hnone : s.firstFailure x.staging 0 x.staging = none := (firstFailure_eq_none_iff s _ _ 0).mpr fun e he => by
    have hpassed := hpasses e he
    rw [failsCheck_eq] at hpassed
    simpa using hpassed
  have hcarry : carryOut h .commit s =
      (settle (applyCommit h x.staging (sessionRestarted x s)), okWith [byte x.staging.length]) := by
    rw [carryOut_of_present s h .commit hpresent, performRequest, commitRequest_of_holder hopen hholder,
      firstFailure_restarted, hnone]
    exact settleAnswered_of_ok _ (a := okWith [byte x.staging.length]) rfl
  obtain ⟨hboard, hhosts, hports⟩ := applyEntries_besides x.staging x.staging (sessionRestarted x s)
  rw [← applied] at hboard hhosts hports
  have hcommit : applyCommit h x.staging (sessionRestarted x s) =
      placeAll (fun g => decide (g ≠ h) && decide ((State.host { applied x s with session := none } g).presence = .present))
        (.configCommitted h x.staging.length) { applied x s with session := none } := rfl
  obtain ⟨k, hk⟩ : ∃ k, k = applied x s := ⟨_, rfl⟩
  rw [← hk] at hboard hhosts hports hcommit ⊢
  have hhost : ∀ g, State.host { k with session := none } g = s.host g := fun g => congrArg (fun x => Table.look x g) hhosts
  obtain ⟨y, hy⟩ := placeAll_eq (fun g => decide (g ≠ h) && decide ((State.host { k with session := none } g).presence = .present))
    (.configCommitted h x.staging.length) { k with session := none }
  have htold := placeAll_host { k with session := none }
    (fun g => decide (g ≠ h) && decide ((State.host { k with session := none } g).presence = .present))
    (.configCommitted h x.staging.length)
  rw [hcommit, hy] at hcarry
  rw [hy] at htold
  obtain ⟨m, hm⟩ : ∃ m : State, m = { k with session := none, hosts := y } := ⟨_, rfl⟩
  rw [← hm] at hcarry htold
  have hports' : (settle m).ports = s.ports := by rw [hm]; exact hports
  have hboard' : SameBoard s m := by rw [hm]; exact hboard
  have hsame : SameCore k m := ⟨y, _, _, none, hm⟩
  have hsession : m.session = none := by rw [hm]
  refine ⟨_, exec_row_carried (c := .commit h rt) rfl hserves hcarry, hsame.trans ((sameCore_settle m).trans (sameCore_setWork _ _ _)),
    hsession, hboard', replies_setWork hports' h rt .commit _, attnSettled_setWork_settle _ _ _, fun g => ?_⟩
  refine (htold g).trans ?_
  rw [hhost]
  refine if_congr ⟨fun h' => h'.1, fun h' => ⟨h', ?_⟩⟩ rfl rfl
  rw [tellsCommit, Bool.and_eq_true, decide_eq_true_eq, decide_eq_true_eq] at h'
  rw [h'.2]
  rfl

/-! ### CLAIMED records and epochs through the entries (R168) -/

/-- The records that are CLAIMED in `s` are kept but for their Again marks. -/
def ClaimedKept (s t : State) : Prop :=
  ∀ u c, s.occ u = some c → c.phase.isClaimed = true →
    ∃ again, t.record u = { s.record u with occ := some { c with again := again } }

theorem ClaimedKept.occ (ht : ClaimedKept s t) (hc : s.occ u = some c) (hclaimed : c.phase.isClaimed = true) :
    t.occ u ≠ none ∧ t.isPendingTag u = false := by
  obtain ⟨again, hr⟩ := ht u c hc hclaimed
  have hu : t.occ u = some { c with again := again } := by rw [State.occ, hr]
  refine ⟨by simp [hu], (State.isPendingTag_of_occ hu).trans ?_⟩
  simpa [Phase.isClaimed] using hclaimed

theorem State.occ_of_isPendingTag (hu : s.isPendingTag u = true) : ∃ c, s.occ u = some c := by
  cases hc : s.occ u with
  | none => simp [State.isPendingTag, hc] at hu
  | some c => exact ⟨c, rfl⟩

/-- A change of one record that is FREE or PENDING. -/
theorem ClaimedKept.of_changed (ht : ClaimedKept s t) (hu : t.occ u = none ∨ t.isPendingTag u = true)
    (hothers : ∀ v, v ≠ u → t'.record v = t.record v) : ClaimedKept s t' := fun v c hc hclaimed => by
  have hvu : v ≠ u := by
    rintro rfl
    obtain ⟨hlive, hnot⟩ := ht.occ hc hclaimed
    rcases hu with hu | hu
    · exact hlive hu
    · exact absurd (hnot.symm.trans hu) nofun
  rw [hothers v hvu]
  exact ht v c hc hclaimed

theorem poolClosed_claimedKept (s : State) : PoolClosed (ClaimedKept s) where
  create {t u} o m p e hfree ht := ht.of_changed (.inl hfree) fun v hv => (entersPending_createRecord t u o m p e).2.2.2 v hv
  merge {t u} k hpending ht := ht.of_changed (.inr hpending) fun v hv => by
    unfold mergeInto
    split
    · exact State.record_setRecord_ne _ _ _ _ hv
    · rfl
  again {t u} ht v c hc hclaimed := by
    obtain ⟨again, hr⟩ := ht v c hc hclaimed
    unfold setAgain
    split
    · next d hd =>
      by_cases hv : v = u
      · subst hv
        have hd' : d = { c with again := again } := by
          rw [State.occ, hr] at hd
          exact (Option.some.inj hd).symm
        refine ⟨true, ?_⟩
        rw [State.setOcc, State.record_setRecord_same, hr, hd']
      · exact ⟨again, (State.record_setRecord_ne _ _ _ _ hv).trans hr⟩
    · exact ⟨again, hr⟩
  group _ _ _ ht := ht
  mark _ _ ht := ht

theorem ClaimedKept.freeRecord (ht : ClaimedKept s t) (hu : t.isPendingTag u = true) : ClaimedKept s (freeRecord u t) := by
  obtain ⟨c, hc⟩ := State.occ_of_isPendingTag hu
  rw [freeRecord_eq t u c hc]
  exact (poolClosed_claimedKept s).grantCheck (ht.of_changed (.inr hu) fun v hv => vacate_record_ne t u v c hv)
    (vacate_occ_same t u c)

/-- The PENDING record of an origin, or none, is all that a move changes. -/
theorem moveLevel_record_ne (s : State) (o : Origin) (l : Level) :
    moveLevel o l s = s ∨ ∃ u, s.isPendingTag u = true ∧ ∀ v, v ≠ u → (moveLevel o l s).record v = s.record v := by
  cases htag : s.pendingTag o with
  | none =>
    refine .inl ?_
    rw [moveLevel, htag]
  | some u =>
    obtain ⟨c, hc, -, hpending⟩ := State.occ_of_pendingTag htag
    refine .inr ⟨u, (State.isPendingTag_of_occ hc).trans hpending, fun v hv => ?_⟩
    rw [moveLevel, htag]
    dsimp only
    rw [hc]
    exact State.record_setRecord_ne _ _ _ _ hv

theorem entryClosed_claimedKept (s : State) : EntryClosed (ClaimedKept s) where
  pool := poolClosed_claimedKept s
  filter _ ht := ht
  opens {t u} hu ht := ht.of_changed (.inr hu) fun v hv => by
    obtain he | ⟨rfl, -⟩ := openRecord_record t u v
    · exact he
    · exact absurd rfl hv
  move {t} o l ht := by
    obtain he | ⟨u, hu, hothers⟩ := moveLevel_record_ne t o l
    · rw [he]
      exact ht
    · exact ht.of_changed (.inr hu) hothers
  withdraw hu ht := ht.freeRecord hu
  commitLine n new ht := (poolClosed_claimedKept s).commitMembership (fun _ _ hu ht => ht.freeRecord hu) n _ new ht
  commitPosted _ _ ht := ht
  commitGroup _ _ ht := ht
  commitPolicy _ ht := ht

theorem EpochsAre.withdrawn {e : Tag → Byte} (hs : EpochsAre e s) (hu : s.isPendingTag u = true) :
    EpochsAre e (Machine.freeRecord u s) := by
  obtain ⟨c, hc⟩ := State.occ_of_isPendingTag hu
  exact hs.freeRecord hc

theorem entryClosed_epochs (e : Tag → Byte) : EntryClosed (EpochsAre e) where
  pool := poolClosed_epochs e
  filter _ hs := hs
  opens _ hs := hs.openRecord _
  move {s} o l hs := by
    unfold moveLevel
    split
    · split
      · exact EpochsAre.setRecord (s := leaveList _ _ s) hs rfl
      · exact hs
    · exact hs
  withdraw hu hs := hs.withdrawn hu
  commitLine n new hs := (poolClosed_epochs e).commitMembership (fun _ _ hu hs => hs.withdrawn hu) n _ new hs
  commitPosted _ _ hs := hs
  commitGroup _ _ hs := hs
  commitPolicy _ hs := hs

/-! ### Posted sources through the entries -/

theorem grantCheck_postedSources (s : State) (u : Tag) : (grantCheck u s).postedSources = s.postedSources := by
  rw [grantCheck]
  obtain ⟨hchoice, -⟩ | ⟨n, hchoice, -⟩ | ⟨k, hchoice, -⟩ := grantChoice_cases s <;> rw [hchoice]
  · exact (grant_tables_line s u n).1
  · exact (grant_tables_group s u k).1

theorem freeRecord_postedSources (s : State) (u : Tag) : (freeRecord u s).postedSources = s.postedSources := by
  cases hc : s.occ u with
  | none => rw [freeRecord, hc]
  | some c => rw [freeRecord_eq s u c hc, grantCheck_postedSources, vacate_postedSources]

theorem withdraw_postedSources (s : State) (o : Origin) : (withdraw o s).postedSources = s.postedSources := by
  unfold withdraw
  split
  · exact freeRecord_postedSources s _
  · rfl

theorem leaveCollect_eq (n : LineId) (o : Option GroupId) (s : State) : ∃ x, leaveCollect n o s = { s with groups := x } := by
  cases o with
  | none => exact ⟨s.groups, rfl⟩
  | some g => exact ⟨_, rfl⟩

theorem moveLevel_eq (o : Origin) (l : Level) (s : State) : ∃ x y, moveLevel o l s = { s with records := x, lists := y } := by
  unfold moveLevel
  split
  · split
    · exact ⟨_, _, rfl⟩
    · exact ⟨s.records, s.lists, rfl⟩
  · exact ⟨s.records, s.lists, rfl⟩

theorem openOrigin_eq (o : Origin) (s : State) : ∃ x, openOrigin o s = { s with records := x } := by
  unfold openOrigin openRecord
  split
  · split
    · split
      · exact ⟨_, rfl⟩
      · exact ⟨s.records, rfl⟩
    · exact ⟨s.records, rfl⟩
  · exact ⟨s.records, rfl⟩

theorem commitTerms_eq (o : Origin) (old new : Terms) (s : State) :
    ∃ x y, commitTerms o old new s = { s with records := x, lists := y } := by
  have hmoved : ∃ x y, (if old.level ≠ new.level then moveLevel o new.level s else s) = { s with records := x, lists := y } := by
    split
    · exact moveLevel_eq o new.level s
    · exact ⟨s.records, s.lists, rfl⟩
  obtain ⟨x, y, hxy⟩ := hmoved
  unfold commitTerms
  dsimp only
  rw [hxy]
  split
  · obtain ⟨z, hz⟩ := openOrigin_eq o { s with records := x, lists := y }
    exact ⟨z, y, hz⟩
  · exact ⟨x, y, rfl⟩

theorem commitMembership_postedSources (n : LineId) (old new : SourceDescriptor) (s : State) :
    (commitMembership n old new s).postedSources = s.postedSources := by
  have hleave : ∀ o (t : State), (leaveCollect n o t).postedSources = t.postedSources := fun o t => by
    obtain ⟨x, hx⟩ := leaveCollect_eq n o t
    rw [hx]
  have hdisabled : (if old.enabled ∧ ¬ new.enabled then
      leaveCollect n old.group (setLineStarved n none (withdraw (.line n) s)) else s).postedSources = s.postedSources := by
    split
    · rw [hleave]
      exact withdraw_postedSources s _
    · rfl
  unfold commitMembership
  dsimp only
  split
  · split
    · exact (hleave _ _).trans hdisabled
    · rw [hleave, hdisabled]
  · exact hdisabled

theorem commitStarved_postedSources (n : LineId) (old new : SourceDescriptor) (s : State) :
    (commitStarved n old new s).postedSources = s.postedSources := by
  have hagain : ∀ u (t : State), (setAgain u t).postedSources = t.postedSources := fun u t => by
    unfold setAgain
    split <;> rfl
  unfold commitStarved
  split
  · split
    · rfl
    · split
      · split
        · rw [hagain]
          rfl
        · rfl
      · rfl
  · rfl

theorem levelTest_postedSources (n : LineId) (s : State) : (levelTest n s).postedSources = s.postedSources :=
  (refired_line s n 0).1

theorem commitFiring_postedSources (n : LineId) (old new : SourceDescriptor) (s : State) :
    (commitFiring n old new s).postedSources = s.postedSources := by
  unfold commitFiring
  split
  · rw [levelTest_postedSources]
    unfold retakeReference
    split <;> rfl
  · rfl

theorem applyLine_postedSources (n : LineId) (d : SourceDescriptor) (s : State) :
    (applyLine n d s).postedSources = s.postedSources := by
  unfold applyLine
  dsimp only
  rw [commitFiring_postedSources, commitStarved_postedSources]
  obtain ⟨x, y, hxy⟩ := commitTerms_eq (.line n) (s.line n).desc.terms d.terms
    (commitMembership n (s.line n).desc d (s.setLine n { s.line n with desc := d }))
  rw [hxy]
  exact commitMembership_postedSources _ _ _ _

theorem fireMembers_postedSources (g : GroupId) (ns : List LineId) (s : State) :
    (fireMembers g ns s).postedSources = s.postedSources := by
  unfold fireMembers
  induction ns generalizing s with
  | nil => rfl
  | cons n ns ih =>
    rw [List.foldl_cons, ih]
    split
    · exact (groupChange_memberTrigger n g s).posted
    · rfl

theorem applyGroup_postedSources (l : List StagedEntry) (g : GroupId) (d : GroupDescriptor) (s : State) :
    (applyGroup l g d s).postedSources = s.postedSources := by
  have hdisabled : (if (s.group g).desc.enabled ∧ ¬ d.enabled then
      disableGroup g (s.setGroup g { s.group g with desc := d }) else s.setGroup g { s.group g with desc := d }).postedSources =
        s.postedSources := by
    split
    · exact withdraw_postedSources (s.setGroup g { s.group g with desc := d }) (.group g)
    · rfl
  unfold applyGroup
  dsimp only
  generalize (if (s.group g).desc.enabled ∧ ¬ d.enabled then
      disableGroup g (s.setGroup g { s.group g with desc := d }) else s.setGroup g { s.group g with desc := d }) = m at hdisabled ⊢
  obtain ⟨x, y, hxy⟩ := commitTerms_eq (.group g) (s.group g).desc.terms d.terms m
  rw [hxy]
  split
  · exact (fireMembers_postedSources _ _ _).trans hdisabled
  · exact hdisabled

theorem applyPosted_posted (n : PostedId) (d : SourceDescriptor) (s : State) :
    (applyPosted n d s).postedSources = (s.setPosted n { s.posted n with desc := d }).postedSources := by
  unfold applyPosted
  dsimp only
  split
  · obtain ⟨x, y, hxy⟩ := commitTerms_eq (.posted n) (s.posted n).desc.terms d.terms
      (withdraw (.posted n) (s.setPosted n { s.posted n with desc := d }))
    rw [hxy]
    exact withdraw_postedSources _ _
  · obtain ⟨x, y, hxy⟩ := commitTerms_eq (.posted n) (s.posted n).desc.terms d.terms
      (s.setPosted n { s.posted n with desc := d })
    rw [hxy]

theorem applyEntry_posted (l : List StagedEntry) (s : State) (e : StagedEntry) (n : PostedId) (hn : ∀ d, e ≠ .posted n d) :
    (applyEntry l s e).posted n = s.posted n := by
  cases e with
  | line m d => exact congrArg (fun x => Table.look x n) (applyLine_postedSources m d s)
  | group g d => exact congrArg (fun x => Table.look x n) (applyGroup_postedSources l g d s)
  | policy p => rfl
  | posted m d =>
    have hm : n ≠ m := fun h => hn d (by rw [h])
    exact (congrArg (fun x => Table.look x n) (applyPosted_posted m d s)).trans (State.posted_setPosted_ne _ _ _ _ hm)

/-! ### The descriptors after the whole list -/

theorem applyEntries_keeps {β : Type} (f : State → β) (l es : List StagedEntry)
    (hquiet : ∀ e ∈ es, ∀ s, f (applyEntry l s e) = f s) (s : State) : f (es.foldl (applyEntry l) s) = f s := by
  induction es generalizing s with
  | nil => rfl
  | cons e es ih =>
    rw [List.foldl_cons, ih (fun e' he' => hquiet e' (List.mem_cons_of_mem _ he')), hquiet e List.mem_cons_self]

/-- What one entry sets and no other entry of the list touches is set by the list (R164). -/
theorem applyEntries_sets {β : Type} (f : State → β) (l es : List StagedEntry) (touches : StagedEntry → Prop)
    (hquiet : ∀ e s, ¬ touches e → f (applyEntry l s e) = f s) {e : StagedEntry} {y : β} (hsets : ∀ s, f (applyEntry l s e) = y)
    (he : e ∈ es) (hapart : TargetsApart es) (hothers : ∀ e', touches e' → e.sameTarget e' = true) (s : State) :
    f (es.foldl (applyEntry l) s) = y := by
  obtain ⟨before, after, rfl⟩ := List.append_of_mem he
  obtain ⟨-, hafter, -⟩ := List.pairwise_append.mp hapart
  rw [List.foldl_append, List.foldl_cons, applyEntries_keeps f l after fun e' he' s => hquiet e' s fun htouch => ?_]
  · exact hsets _
  · exact absurd (((List.pairwise_cons.mp hafter).1 e' he').symm.trans (hothers e' htouch)) nofun

/-- Settles O49: the first failing check, or the whole list. -/
theorem commitIsCheckedThenApplied : Obligations.CommitIsCheckedThenApplied := by
  intro s h rt x hserves hpresent hopen hholder hapart
  by_cases hpasses : ∀ e ∈ x.staging, failsCheck s x.staging e = none
  · obtain ⟨t, hexec, hsame, hsession, hboard, hreplies, hattn, hhosts⟩ :=
      exec_commit_applied hserves hpresent hopen hholder hpasses
    have hdesc := line_desc_applyEntries x.staging
    have hclaimed := (entryClosed_claimedKept s).applyEntries (s := sessionRestarted x s)
      (fun u c hc _ => ⟨c.again, by rw [← hc]; rfl⟩) x.staging x.staging
    have hepochs := (entryClosed_epochs fun v => (s.record v).epoch).applyEntries (s := sessionRestarted x s)
      (fun _ => rfl) x.staging x.staging
    refine ⟨t, hexec, hboard, fun i why hi hfails _ => ?_, fun _ => ⟨hsession, hattn, hreplies, fun n => ?_, fun n d hd => ?_,
      fun n hn => ?_, fun g d hd => ?_, fun g hg => ?_, fun p hp => ?_, fun hp => ?_, fun u c hc hc' => ?_, fun u => ?_,
      fun g hg hp => ?_, fun g hg => ?_⟩⟩
    · have hget : x.staging[i]? = some x.staging[i] := List.getElem?_eq_getElem hi
      rw [hget, Option.bind_some, hpasses _ (List.getElem_mem hi)] at hfails
      cases hfails
    · have hline := line_desc_applyEntries x.staging n x.staging hapart (sessionRestarted x s)
      rw [State.line_desc_of_descs hsame.descs]
      exact hline
    · rw [State.posted_desc_of_descs hsame.descs]
      exact applyEntries_sets (fun t => (t.posted n).desc) x.staging x.staging (fun e => ∃ d, e = .posted n d)
        (fun e s he => by
          obtain ⟨d', rfl, -⟩ | ⟨-, hkept⟩ := posted_desc_applyEntry x.staging s e n
          · exact absurd ⟨d', rfl⟩ he
          · exact hkept)
        (fun s => by
          obtain ⟨d', hd', hset⟩ | ⟨hnot, -⟩ := posted_desc_applyEntry x.staging s (.posted n d) n
          · cases hd'
            exact hset
          · exact absurd rfl (hnot d)) hd hapart (by rintro e' ⟨d', rfl⟩; simp [StagedEntry.sameTarget]) _
    · have hkept := applyEntries_keeps (fun t => t.posted n) x.staging x.staging (fun e he s => applyEntry_posted x.staging s e n
        fun d hd => hn d (hd ▸ he)) (sessionRestarted x s)
      obtain ⟨_, _, _, _, rfl⟩ := hsame
      exact hkept
    · rw [State.group_desc_of_descs hsame.descs]
      exact applyEntries_sets (fun t => (t.group g).desc) x.staging x.staging (fun e => ∃ d, e = .group g d)
        (fun e s he => by
          obtain ⟨d', rfl, -⟩ | ⟨-, hkept⟩ := group_desc_applyEntry x.staging s e g
          · exact absurd ⟨d', rfl⟩ he
          · exact hkept)
        (fun s => by
          obtain ⟨d', hd', hset⟩ | ⟨hnot, -⟩ := group_desc_applyEntry x.staging s (.group g d) g
          · cases hd'
            exact hset
          · exact absurd rfl (hnot d)) hd hapart (by rintro e' ⟨d', rfl⟩; simp [StagedEntry.sameTarget]) _
    · rw [State.group_desc_of_descs hsame.descs]
      exact applyEntries_keeps (fun t => (t.group g).desc) x.staging x.staging (fun e he s => by
        obtain ⟨d, rfl, -⟩ | ⟨-, hkept⟩ := group_desc_applyEntry x.staging s e g
        · exact absurd he (hg d)
        · exact hkept) _
    · rw [hsame.board.2]
      exact applyEntries_sets (fun t => t.policy) x.staging x.staging (fun e => ∃ p, e = .policy p)
        (fun e s he => by
          obtain ⟨p', rfl, -⟩ | ⟨-, hkept⟩ := policy_applyEntry x.staging s e
          · exact absurd ⟨p', rfl⟩ he
          · exact hkept)
        (fun s => rfl) hp hapart (by rintro e' ⟨p', rfl⟩; simp [StagedEntry.sameTarget]) _
    · rw [hsame.board.2]
      exact applyEntries_keeps (fun t => t.policy) x.staging x.staging (fun e he s => by
        obtain ⟨p, rfl, -⟩ | ⟨-, hkept⟩ := policy_applyEntry x.staging s e
        · exact absurd he (hp p)
        · exact hkept) _
    · rw [hsame.record]
      exact hclaimed u c hc hc'
    · rw [hsame.record]
      exact hepochs u
    · rw [NoticePlaced, hhosts, if_pos (by simp [tellsCommit, hg, hp])]
      exact enqueue_cases _ _
    · rw [hhosts, if_neg (by rcases hg with rfl | hp <;> simp [tellsCommit, *])]
  · cases hfirst : s.firstFailure x.staging 0 x.staging with
    | none =>
      refine absurd (fun e he => ?_) hpasses
      rw [failsCheck_eq, (firstFailure_eq_none_iff s _ _ 0).mp hfirst e he]
      rfl
    | some p =>
      obtain ⟨k, reason⟩ := p
      obtain ⟨t, hexec, hsession, hpolicy, htables, hpool, hhosts, hattn, hboard, hreplies⟩ :=
        exec_commit_refused hserves hpresent hopen hholder hfirst
      refine ⟨t, hexec, hboard, fun i why hi hfails hbefore => ?_, fun hall => absurd hall hpasses⟩
      have hcheck : ∀ j : Nat, x.staging[j]?.bind (failsCheck s x.staging) =
          (x.staging[j]?.bind (s.entryFailure x.staging)).map ConfigFailure.code := fun j => by
        cases x.staging[j]? with
        | none => rfl
        | some e => exact failsCheck_eq s x.staging e
      rw [hcheck] at hfails
      obtain ⟨why', hwhy, rfl⟩ := Option.map_eq_some_iff.mp hfails
      have hsome := firstFailure_eq_some hwhy (fun j hj => by simpa [hcheck] using hbefore j hj) 0
      rw [hfirst, Nat.zero_add, Option.some.injEq, Prod.mk.injEq] at hsome
      obtain ⟨rfl, rfl⟩ := hsome
      exact ⟨hsession, hpolicy, htables, hpool, hhosts, hattn, hreplies⟩

end Sys2Proof.Machine
end

section
/-! The steps of a Source Descriptor entry, one by one (R165): what each sets and what it keeps. -/

namespace Sys2Proof.Machine

variable {s s' t t' m : State} {u v w : Tag} {c d : Occurrence} {h : HostId} {n : LineId} {old new : SourceDescriptor}

/-! ### The collect set that a source leaves (R106, R108) -/

theorem leaveCollect_group (n : LineId) (o : Option GroupId) (s : State) (k : GroupId) :
    (leaveCollect n o s).group k = if o = some k then leftBy n (s.group k) else s.group k := by
  cases o with
  | none => rfl
  | some g =>
    by_cases hg : g = k
    · subst hg
      rw [leaveCollect, if_pos rfl, State.group_setGroup_same, leftBy, removeSource]
      cases hrest : (s.group g).collect.filter (fun m => decide (m ≠ n)) <;> simp
    · rw [leaveCollect, if_neg fun h => hg (Option.some.inj h), State.group_setGroup_ne _ _ _ _ (Ne.symm hg)]

theorem leftBy_leftBy (n : LineId) (x : Group) : leftBy n (leftBy n x) = leftBy n x := by
  simp only [leftBy, List.filter_filter, Bool.and_self]
  cases x.starved <;> simp

/-! ### Steps 2 and 3: disabling, and the group field -/

/-- The record of a source that the entry disables is withdrawn first (R165 step 2). -/
def withdrawnFirst (n : LineId) (old new : SourceDescriptor) (s : State) : State :=
  if old.enabled ∧ ¬ new.enabled then withdraw (.line n) s else s

/-- The entry disables the source. -/
def disables (old new : SourceDescriptor) : Bool := old.enabled && !new.enabled

/-- The entry takes the starved mark of the source (R165 steps 2 and 3). -/
def takesMark (old new : SourceDescriptor) : Bool := disables old new || (decide (old.group ≠ new.group) && new.group.isSome)

/-- The entry takes the source out of the collect set of its old group. -/
def leavesGroup (old new : SourceDescriptor) : Bool := decide (old.group ≠ new.group) || disables old new

theorem setLineStarved_line (s : State) (n m : LineId) (x : Option Nat) :
    (setLineStarved n x s).line m = if m = n then { s.line n with starved := x } else s.line m := by
  by_cases hm : m = n
  · subst hm
    rw [if_pos rfl, setLineStarved, State.line_setLine_same]
  · rw [if_neg hm, setLineStarved, State.line_setLine_ne _ _ _ _ hm]

theorem setLineStarved_group (s : State) (n : LineId) (x : Option Nat) (k : GroupId) :
    (setLineStarved n x s).group k = s.group k := rfl

/-- Steps 2 and 3 change, besides the withdrawal, the mark of the source and the collect set that it leaves. -/
theorem commitMembership_fields (n : LineId) (old new : SourceDescriptor) (s : State) :
    (∃ x y, commitMembership n old new s = { withdrawnFirst n old new s with lineSources := x, groups := y }) ∧
    (∀ m, (commitMembership n old new s).line m = if m = n ∧ takesMark old new = true then
      { (withdrawnFirst n old new s).line n with starved := none } else (withdrawnFirst n old new s).line m) ∧
    ∀ k, (commitMembership n old new s).group k = if old.group = some k ∧ leavesGroup old new = true then
      leftBy n ((withdrawnFirst n old new s).group k) else (withdrawnFirst n old new s).group k := by
  obtain ⟨w, hw⟩ : ∃ w, w = withdrawnFirst n old new s := ⟨_, rfl⟩
  have hform : ∀ (t : State) x y, t = { w with lineSources := x, groups := y } →
      (∃ x' y', leaveCollect n old.group t = { w with lineSources := x', groups := y' }) ∧
      ∃ x' y', setLineStarved n none t = { w with lineSources := x', groups := y' } := fun t x y ht => by
    obtain ⟨z, hz⟩ := leaveCollect_eq n old.group t
    subst ht
    exact ⟨⟨x, z, hz⟩, _, y, rfl⟩
  have hstep : (if old.enabled ∧ ¬ new.enabled then
      leaveCollect n old.group (setLineStarved n none (withdraw (.line n) s)) else s) =
        if disables old new = true then leaveCollect n old.group (setLineStarved n none w) else w := by
    rw [hw, withdrawnFirst]
    cases ho : old.enabled <;> cases hn : new.enabled <;> simp [disables, ho, hn]
  have hmember : commitMembership n old new s =
      if old.group ≠ new.group then
        if new.group.isSome = true then
          setLineStarved n none (leaveCollect n old.group
            (if disables old new = true then leaveCollect n old.group (setLineStarved n none w) else w))
        else leaveCollect n old.group
          (if disables old new = true then leaveCollect n old.group (setLineStarved n none w) else w)
      else if disables old new = true then leaveCollect n old.group (setLineStarved n none w) else w := by
    rw [← hstep]
    rfl
  rw [hmember, ← hw]
  have hfirst : ∃ x y, (if disables old new = true then leaveCollect n old.group (setLineStarved n none w) else w) =
      { w with lineSources := x, groups := y } := by
    split
    · obtain ⟨-, x, y, hxy⟩ := hform w w.lineSources w.groups rfl
      exact (hform _ x y hxy).1
    · exact ⟨w.lineSources, w.groups, rfl⟩
  have hfirstLine : ∀ m, (if disables old new = true then leaveCollect n old.group (setLineStarved n none w) else w).line m =
      if m = n ∧ disables old new = true then { w.line n with starved := none } else w.line m := fun m => by
    by_cases hd : disables old new = true
    · by_cases hm : m = n <;> simp [hd, hm, leaveCollect_line, setLineStarved_line]
    · simp [hd]
  have hfirstGroup : ∀ k, (if disables old new = true then leaveCollect n old.group (setLineStarved n none w) else w).group k =
      if old.group = some k ∧ disables old new = true then leftBy n (w.group k) else w.group k := fun k => by
    by_cases hd : disables old new = true
    · simp [hd, leaveCollect_group, setLineStarved_group]
    · simp [hd]
  obtain ⟨b, hb⟩ : ∃ b, b = if disables old new = true then leaveCollect n old.group (setLineStarved n none w) else w := ⟨_, rfl⟩
  rw [← hb] at hfirst hfirstLine hfirstGroup ⊢
  obtain ⟨x, y, hxy⟩ := hfirst
  by_cases hmoved : old.group = new.group
  · have hmark : takesMark old new = disables old new := by simp [takesMark, hmoved]
    have hleaves : leavesGroup old new = disables old new := by simp [leavesGroup, hmoved]
    rw [if_neg (not_not.mpr hmoved), hmark, hleaves]
    exact ⟨⟨x, y, hxy⟩, hfirstLine, hfirstGroup⟩
  · have hleaves : leavesGroup old new = true := by simp [leavesGroup, hmoved]
    obtain ⟨x', y', hxy'⟩ := (hform b x y hxy).1
    have hgroup : ∀ k, (leaveCollect n old.group b).group k = if old.group = some k ∧ leavesGroup old new = true then
        leftBy n (w.group k) else w.group k := fun k => by
      rw [leaveCollect_group, hfirstGroup, hleaves]
      by_cases hk : old.group = some k
      · by_cases hd : disables old new = true <;> simp [hk, hd, leftBy_leftBy]
      · simp [hk]
    rw [if_pos hmoved]
    by_cases hsome : new.group.isSome = true
    · have hmark : takesMark old new = true := by simp [takesMark, hmoved, hsome]
      rw [if_pos hsome]
      refine ⟨(hform _ x' y' hxy').2, fun m => ?_, hgroup⟩
      rw [setLineStarved_line, leaveCollect_line, leaveCollect_line, hfirstLine, hfirstLine, hmark]
      by_cases hm : m = n
      · by_cases hd : disables old new = true <;> simp [hm, hd]
      · simp [hm]
    · have hmark : takesMark old new = disables old new := by simp [takesMark, hsome]
      rw [if_neg hsome, hmark]
      exact ⟨⟨x', y', hxy'⟩, fun m => by rw [leaveCollect_line, hfirstLine], hgroup⟩

theorem withdrawnFirst_of_kept (hkept : disables old new = false ∨ NoPendingRecord s (.line n)) :
    withdrawnFirst n old new s = s := by
  unfold withdrawnFirst
  split
  · next hd =>
    rcases hkept with hkept | hnone
    · simp [disables, hd.1, hd.2] at hkept
    · rw [withdraw, (State.pendingTag_eq_none_iff s _).mpr hnone]
  · rfl

/-! ### Steps 4 and 5: the level and the preferred host -/

theorem commitTerms_of_none (o : Origin) (old new : Terms) (hnone : NoPendingRecord s o) : commitTerms o old new s = s := by
  have htag := (State.pendingTag_eq_none_iff s o).mpr hnone
  have hmove : moveLevel o new.level s = s := by rw [moveLevel, htag]
  unfold commitTerms
  dsimp only
  rw [hmove, ite_self, openOrigin, htag]
  exact ite_self _

/-- The PENDING record `u` carries another level, at the tail of its list (R53). -/
def movedTo (u : Tag) (c : Occurrence) (l : Level) (s : State) : State :=
  joinList u l ((leaveList u c.level s).setOcc u { c with level := l })

theorem movedTo_list (s : State) (u : Tag) (c : Occurrence) (l k : Level) : (movedTo u c l s).list k =
    (if k = c.level then (s.list k).filter (fun v => decide (v ≠ u)) else s.list k) ++ (if k = l then [u] else []) := by
  have hleft : ∀ k, ((leaveList u c.level s).setOcc u { c with level := l }).list k =
      if k = c.level then (s.list k).filter (fun v => decide (v ≠ u)) else s.list k := fun k => by
    rw [show ((leaveList u c.level s).setOcc u { c with level := l }).list k = (leaveList u c.level s).list k from rfl, leaveList]
    by_cases hk : k = c.level
    · subst hk
      rw [if_pos rfl, State.list_setList_same]
    · rw [if_neg hk, State.list_setList_ne _ _ _ _ hk]
  rw [movedTo, joinList, hleft]
  by_cases hk : k = l
  · subst hk
    rw [State.list_setList_same, if_pos rfl]
  · rw [State.list_setList_ne _ _ _ _ hk, hleft, if_neg hk, List.append_nil]

theorem movedTo_record (s : State) (u : Tag) (c : Occurrence) (l : Level) :
    (movedTo u c l s).record u = { s.record u with occ := some { c with level := l } } :=
  State.record_setRecord_same _ _ _

theorem movedTo_record_ne {v : Tag} (s : State) (u : Tag) (c : Occurrence) (l : Level) (hv : v ≠ u) :
    (movedTo u c l s).record v = s.record v := State.record_setRecord_ne _ _ _ _ hv

theorem pendingTag_of_occ {o : Origin} {e : Occurrence} (htag : s.pendingTag o = some u) (hc : s.occ u = some c)
    (he : t.occ u = some e) (horigin : e.origin = c.origin) (hphase : e.phase = c.phase)
    (hothers : ∀ v, v ≠ u → t.occ v = s.occ v) : t.pendingTag o = some u := by
  have hsame : ∀ v, (t.isLiveOf o v && t.isPendingTag v) = (s.isLiveOf o v && s.isPendingTag v) := fun v => by
    by_cases hv : v = u
    · subst hv
      simp [State.isLiveOf, State.isPendingTag, hc, he, horigin, hphase]
    · simp [State.isLiveOf, State.isPendingTag, hothers v hv]
  rw [← htag]
  simp only [State.pendingTag, hsame]

/-- R53, R58: what steps 4 and 5 make of the PENDING record of the origin. -/
theorem movedAndOpened_commitTerms {o : Origin} (old new : Terms) (htag : s.pendingTag o = some u) (hc : s.occ u = some c) :
    MovedAndOpened s (commitTerms o old new s) u c old new ∧ OtherRecordsKept u s (commitTerms o old new s) ∧
      ∃ e, (commitTerms o old new s).occ u = some e ∧ e.origin = c.origin ∧ e.phase.isPending = true := by
  have hpending : c.phase.isPending = true := by
    obtain ⟨c', hc', -, hp⟩ := State.occ_of_pendingTag htag
    rwa [Option.some.inj (hc.symm.trans hc')]
  obtain ⟨b, hb⟩ : ∃ b, b = if old.level ≠ new.level then moveLevel o new.level s else s := ⟨_, rfl⟩
  have hmoved : ∃ l, (old.level = new.level → l = c.level ∧ b.lists = s.lists) ∧
      (old.level ≠ new.level → l = new.level ∧ ∀ k, b.list k = (if k = c.level then
        (s.list k).filter (fun v => decide (v ≠ u)) else s.list k) ++ (if k = new.level then [u] else [])) ∧
      b.record u = { s.record u with occ := some { c with level := l } } ∧ ∀ v, v ≠ u → b.record v = s.record v := by
    by_cases hlevel : old.level = new.level
    · refine ⟨c.level, fun _ => ⟨rfl, ?_⟩, fun h => absurd hlevel h, ?_, fun v _ => ?_⟩ <;>
        rw [hb, if_neg (not_not.mpr hlevel)]
      rw [← hc]
      rfl
    · have hmove : b = movedTo u c new.level s := by
        rw [hb, if_pos hlevel, moveLevel, htag]
        dsimp only
        rw [hc]
        rfl
      refine ⟨new.level, fun h => absurd h hlevel, fun _ => ⟨rfl, fun k => ?_⟩, ?_, fun v hv => ?_⟩ <;> rw [hmove]
      · exact movedTo_list s u c new.level k
      · exact movedTo_record s u c new.level
      · exact movedTo_record_ne s u c new.level hv
  obtain ⟨l, hsame, hother, hrecord, hothers⟩ := hmoved
  have hbocc : b.occ u = some { c with level := l } := by rw [State.occ, hrecord]
  have hbtag : b.pendingTag o = some u := pendingTag_of_occ htag hc hbocc rfl rfl fun v hv => by
    rw [State.occ, hothers v hv, State.occ]
  have hterms : commitTerms o old new s = if old.preferred ≠ new.preferred then openRecord u b else b := by
    unfold commitTerms
    dsimp only
    rw [← hb, openOrigin, hbtag]
  have hlevelled : ∀ e : Occurrence, e.level = l → (new.level = old.level → decide (e.level = c.level) = true) ∧
      (new.level ≠ old.level → decide (e.level = new.level) = true) := fun e he =>
    ⟨fun h => decide_eq_true (he.trans (hsame h.symm).1), fun h => decide_eq_true (he.trans (hother (Ne.symm h)).1)⟩
  have hstays : old.preferred = new.preferred ∨ c.phase = .pendingOpen → commitTerms o old new s = b := fun hstay => by
    rw [hterms]
    split
    · next hpreferred =>
      have hopen : c.phase = .pendingOpen := hstay.resolve_left hpreferred
      unfold openRecord
      rw [hbocc]
      simp [hopen]
    · rfl
  by_cases hstay : old.preferred = new.preferred ∨ c.phase = .pendingOpen
  · rw [hstays hstay]
    refine ⟨⟨fun h => ⟨(hsame h.symm).2, ?_⟩, fun h => ⟨(hother (Ne.symm h)).2, ?_⟩, fun _ => ?_, fun hne hexcl => ?_⟩,
      hothers, _, hbocc, rfl, hpending⟩
    · rw [hbocc, Option.any_some]
      exact (hlevelled _ rfl).1 h
    · rw [hbocc, Option.any_some]
      exact (hlevelled _ rfl).2 h
    · rw [hbocc]
      exact hrecord
    · rcases hstay with h' | h'
      · exact absurd h'.symm hne
      · exact absurd (hexcl.symm.trans h') nofun
  · rw [not_or] at hstay
    obtain ⟨hpreferred, hnotOpen⟩ := hstay
    have hexcl : c.phase = .pendingExcl := by
      cases hp : c.phase with
      | pendingExcl => rfl
      | pendingOpen => exact absurd hp hnotOpen
      | claimed k e ms => simp [hp, Phase.isPending] at hpending
    have hopened : commitTerms o old new s = b.setRecord u { b.record u with
        timer := .stopped, occ := some { c with level := l, phase := .pendingOpen } } := by
      rw [hterms, if_pos hpreferred]
      unfold openRecord
      rw [hbocc]
      simp [hexcl]
    have hocc : (commitTerms o old new s).occ u = some { c with level := l, phase := .pendingOpen } := by
      rw [hopened]
      exact State.occ_setRecord_same _ _ _
    have hlists : (commitTerms o old new s).lists = b.lists := by
      rw [hopened]
      rfl
    have hlist : ∀ k, (commitTerms o old new s).list k = b.list k := fun k => by rw [State.list, hlists, State.list]
    refine ⟨⟨fun h => ⟨hlists.trans (hsame h.symm).2, ?_⟩, fun h => ⟨fun k => (hlist k).trans ((hother (Ne.symm h)).2 k), ?_⟩,
      fun hor => ?_, fun _ _ => ?_⟩, fun v hv => ?_, _, hocc, rfl, rfl⟩
    · rw [hocc, Option.any_some]
      exact (hlevelled _ rfl).1 h
    · rw [hocc, Option.any_some]
      exact (hlevelled _ rfl).2 h
    · rcases hor with h' | h'
      · exact absurd h'.symm hpreferred
      · exact absurd h' hnotOpen
    · rw [hocc, hopened, State.record_setRecord_same, hrecord]
      rfl
    · rw [hopened, State.record_setRecord_ne _ _ _ _ hv, hothers v hv]

/-! ### Step 7: the reference level, and the firing -/

theorem retakeReference_line (s : State) (n m : LineId) : (retakeReference n s).line m =
    if m = n then { s.line n with filter := (s.line n).filter.map retaken } else s.line m := by
  cases hf : (s.line n).filter with
  | none =>
    rw [retakeReference, hf]
    by_cases hm : m = n
    · subst hm
      have hself : { s.line m with filter := none } = s.line m := by rw [← hf]
      rw [if_pos rfl]
      exact hself.symm
    · rw [if_neg hm]
  | some f =>
    rw [retakeReference, hf]
    by_cases hm : m = n
    · subst hm
      rw [if_pos rfl, State.line_setLine_same]
      rfl
    · rw [if_neg hm, State.line_setLine_ne _ _ _ _ hm]

theorem retakeReference_eq (s : State) (n : LineId) : ∃ x, retakeReference n s = { s with lineSources := x } := by
  unfold retakeReference
  split
  · exact ⟨_, rfl⟩
  · exact ⟨s.lineSources, rfl⟩

theorem retakeReference_stands (s : State) (n : LineId) : (retakeReference n s).stands n = s.stands n := by
  rw [State.stands_eq, State.stands_eq, retakeReference_line, if_pos rfl]
  cases (s.line n).filter <;> rfl

theorem levelTest_of_not_standing (hnot : s.stands n = false) : levelTest n s = s :=
  levelTest_of_not_fires (by rw [firesAgain_line, hnot, Bool.and_false])

/-- What the test of an enabled source in place `some k` or in none leaves besides its own origin. -/
theorem levelTest_keeps (s : State) (n : LineId) : OtherLinesKept n s (levelTest n s) ∧
    ((levelTest n s).line n).desc = (s.line n).desc ∧
    ((s.line n).desc.group = none → (levelTest n s).groups = s.groups) ∧
    ∀ k, (s.line n).desc.group = some k → (levelTest n s).line n = s.line n ∧ OtherGroupsKept k s (levelTest n s) := by
  have hdesc : ((levelTest n s).line n).desc = (s.line n).desc :=
    State.line_desc_of_descs ((poolClosed_descs s.descs).levelTest rfl n) n
  cases hgroup : (s.line n).desc.group with
  | none =>
    have hchange := sourceChange_levelTest s hgroup
    exact ⟨hchange.lines, hdesc, fun _ => hchange.groups, nofun⟩
  | some k =>
    cases hf : firesAgain s (.line n) with
    | false =>
      rw [levelTest_of_not_fires hf]
      exact ⟨fun _ _ => rfl, rfl, nofun, fun _ _ => ⟨rfl, fun _ _ => rfl⟩⟩
    | true =>
      rw [firesAgain_line, Bool.and_eq_true] at hf
      have hmember := levelTest_of_member hf.1 hf.2 hgroup
      have hchange := groupChange_memberTrigger n k s
      rw [← hmember] at hchange
      have hline : ∀ m, (levelTest n s).line m = s.line m := fun m => by rw [State.line, hchange.lines, State.line]
      refine ⟨fun m _ => hline m, hdesc, nofun, fun k' hk' => ?_⟩
      obtain rfl := Option.some.inj hk'
      exact ⟨hline n, hchange.groups⟩

end Sys2Proof.Machine
end

section
/-! A COMMIT of one entry, and the PENDING record of its origin (R165). -/

namespace Sys2Proof.Machine

variable {s s' t t' m : State} {u v w : Tag} {c d : Occurrence} {h : HostId} {n : LineId} {rt : RequestTag} {x : Session}
  {old new desc : SourceDescriptor} {o : Origin}

/-! ### The withdrawal of a PENDING record -/

theorem leaveList_leaveList (s : State) (u : Tag) (l : Level) : leaveList u l (leaveList u l s) = leaveList u l s := by
  have hlist : (leaveList u l s).list l = (s.list l).filter (fun v => decide (v ≠ u)) := State.list_setList_same _ _ _
  rw [leaveList, hlist, List.filter_filter]
  simp [leaveList, State.setList, Table.put]

/-- R41: a PENDING record leaves its list, and its tag is FREE or granted. -/
theorem tagFreed_of_pending (hc : s.occ u = some c) (hpending : c.phase.isPending = true) :
    TagFreed (withoutPending s u c) (freeRecord u s) none u c := by
  have hleft : withoutPending s u c = leaveList u c.level s := rfl
  have hvacate : vacate u c (withoutPending s u c) = vacate u c s := by
    rw [hleft, vacate, vacate, if_pos hpending, if_pos hpending, leaveList_leaveList]
    rfl
  have hlists : (vacate u c (withoutPending s u c)).lists = (withoutPending s u c).lists := by
    rw [hvacate, vacate, if_pos hpending]
    cases c.origin <;> rfl
  have hfree : freeRecord u s = freeRecord u (withoutPending s u c) := by
    rw [freeRecord_eq s u c hc, freeRecord_eq (withoutPending s u c) u c hc, hvacate]
  rw [hfree]
  exact tagFreed_of_unlisted hc hlists

/-- A granted tag goes to a starved origin. -/
theorem TagAfterFreeing.origin (ht : TagAfterFreeing s t none u) (hd : t.occ u = some d) :
    (∃ m, FirstStarvedLine s m ∧ d.origin = .line m) ∨ ∃ k, FirstStarvedGroup s k ∧ d.origin = .group k := by
  have hreturned : ∀ terms e, ReturnedRecord s none (s.record u).epoch terms e (t.record u) → d.origin = e.origin :=
    fun terms e hr => by
      rw [State.occ] at hd
      obtain ⟨-, hr⟩ | ⟨-, hr⟩ := returnedRecord_none_iff.mp hr <;> rw [hr] at hd <;>
        exact (congrArg Occurrence.origin (Option.some.inj hd)).symm
  obtain ⟨hfree, hline, hgroup⟩ := ht
  obtain ⟨-, hnone⟩ | ⟨m, -, hfirst⟩ | ⟨k, -, hfirst⟩ := grantChoice_cases s
  · rw [State.occ, (hfree hnone).1] at hd
    cases hd
  · exact .inl ⟨m, hfirst, hreturned _ _ (hline m hfirst).1⟩
  · exact .inr ⟨k, hfirst, hreturned _ _ (hgroup k hfirst).1⟩

/-! ### Starvation told of a state in which an unstarved origin has another descriptor -/

/-- The starved origins are those of `s`, and they are as in `s`. -/
structure SameStarved (s s' : State) : Prop where
  starvedLine : ∀ n, StarvedLine s' n ↔ StarvedLine s n
  line : ∀ n, StarvedLine s n → s'.line n = s.line n
  starvedGroup : ∀ g, (s'.group g).starved = (s.group g).starved
  group : ∀ g, (s.group g).starved = true → s'.group g = s.group g

theorem SameStarved.symm (hsame : SameStarved s s') : SameStarved s' s :=
  ⟨fun n => (hsame.starvedLine n).symm, fun n hn => (hsame.line n ((hsame.starvedLine n).mp hn)).symm,
    fun g => (hsame.starvedGroup g).symm, fun g hg => (hsame.group g ((hsame.starvedGroup g).symm.trans hg)).symm⟩

theorem SameStarved.firstLine_of (hsame : SameStarved s s') (hn : FirstStarvedLine s' n) : FirstStarvedLine s n := by
  obtain ⟨hstarved, hlines, hgroups⟩ := hn
  have hown := hsame.line n ((hsame.starvedLine n).mp hstarved)
  refine ⟨(hsame.starvedLine n).mp hstarved, fun m hm => ?_, fun g hg => ?_⟩
  · have hless := hlines m ((hsame.starvedLine m).mpr hm)
    rwa [hown, hsame.line m hm] at hless
  · have hless := hgroups g ((hsame.starvedGroup g).trans hg)
    rwa [hown, hsame.group g hg] at hless

theorem SameStarved.firstGroup_of (hsame : SameStarved s s') {k : GroupId} (hk : FirstStarvedGroup s' k) : FirstStarvedGroup s k := by
  obtain ⟨hstarved, hlines, hgroups⟩ := hk
  have hstarved' := (hsame.starvedGroup k).symm.trans hstarved
  have hown := hsame.group k hstarved'
  refine ⟨hstarved', fun m hm => ?_, fun g hg => ?_⟩
  · have hless := hlines m ((hsame.starvedLine m).mpr hm)
    rwa [hown, hsame.line m hm] at hless
  · have hless := hgroups g ((hsame.starvedGroup g).trans hg)
    rwa [hown, hsame.group g hg] at hless

theorem SameStarved.firstLine (hsame : SameStarved s s') (n : LineId) : FirstStarvedLine s' n ↔ FirstStarvedLine s n :=
  ⟨hsame.firstLine_of, hsame.symm.firstLine_of⟩

theorem SameStarved.firstGroup (hsame : SameStarved s s') (k : GroupId) : FirstStarvedGroup s' k ↔ FirstStarvedGroup s k :=
  ⟨hsame.firstGroup_of, hsame.symm.firstGroup_of⟩

theorem noneStarved_iff (s : State) : NoneStarved s ↔ (∀ n, ¬ StarvedLine s n) ∧ ∀ g, (s.group g).starved = false := by
  simp only [NoneStarved, StarvedLine, not_and, not_not]

theorem SameStarved.noneStarved (hsame : SameStarved s s') : NoneStarved s' ↔ NoneStarved s := by
  simp only [noneStarved_iff, hsame.starvedLine, hsame.starvedGroup]

theorem SameStarved.tagAfterFreeing (hsame : SameStarved s s') (hepoch : (s'.record u).epoch = (s.record u).epoch)
    (hlists : s'.lists = s.lists) (hpresence : ∀ p, (s'.host p).presence = (s.host p).presence)
    (ht : TagAfterFreeing s' t none u) : TagAfterFreeing s t none u := by
  have hlist : ∀ l, s'.list l = s.list l := fun l => by rw [State.list, hlists, State.list]
  obtain ⟨hfree, hline, hgroup⟩ := ht
  refine ⟨fun hnone => ?_, fun n hn => ?_, fun k hk => ?_⟩
  · have hfreed := hfree (hsame.noneStarved.mpr hnone)
    rwa [hepoch, hlists] at hfreed
  · have hgranted := hline n ((hsame.firstLine n).mpr hn)
    simpa only [GrantedTag, returnedRecord_congr hpresence, hepoch, hlist, hsame.line n hn.1] using hgranted
  · have hgranted := hgroup k ((hsame.firstGroup k).mpr hk)
    simpa only [GrantedTag, returnedRecord_congr hpresence, hepoch, hlist, hsame.group k hk.1] using hgranted

theorem SameStarved.groupAfterFreeing (hsame : SameStarved s s') {k : GroupId} (hk : s'.group k = s.group k) (o : Origin) :
    groupAfterFreeing s' u o k = Machine.groupAfterFreeing s u o k := by
  simp only [Machine.groupAfterFreeing, hsame.firstGroup, hk]

theorem SameStarved.lineAfterFreeing (hsame : SameStarved s s') (hn : s'.line n = s.line n) :
    lineAfterFreeing s' n = Machine.lineAfterFreeing s n := by
  simp only [Machine.lineAfterFreeing, hsame.firstLine, hn]

theorem StarvedLine.congr (hn : s'.line n = s.line n) : StarvedLine s' n ↔ StarvedLine s n := by
  rw [StarvedLine, hn]

/-- A source without a mark takes part in no grant, whatever its descriptor. -/
theorem sameStarved_setLine {y : LineSource} (hs : (s.line n).starved = none) (hy : y.starved = none) :
    SameStarved s (s.setLine n y) := by
  have hnot : ¬ StarvedLine s n := fun h => h.2 hs
  have hnot' : ¬ StarvedLine (s.setLine n y) n := fun h => h.2 (by rw [State.line_setLine_same, hy])
  refine ⟨fun m => ?_, fun m hm => State.line_setLine_ne _ _ _ _ ?_, fun _ => rfl, fun _ _ => rfl⟩
  · by_cases hm : m = n
    · subst hm
      exact ⟨fun h => absurd h hnot', fun h => absurd h hnot⟩
    · exact StarvedLine.congr (State.line_setLine_ne _ _ _ _ hm)
  · rintro rfl
    exact hnot hm

/-! ### The entry of a line source that has a PENDING record -/

/-- The new descriptor is in place (R165 step 1). -/
def described (n : LineId) (new : SourceDescriptor) (s : State) : State := s.setLine n { s.line n with desc := new }

theorem applyLine_eq (n : LineId) (new : SourceDescriptor) (s : State) : applyLine n new s =
    commitFiring n (s.line n).desc new (commitStarved n (s.line n).desc new (commitTerms (.line n) (s.line n).desc.terms new.terms
      (commitMembership n (s.line n).desc new (described n new s)))) := rfl

theorem described_line (s : State) (n m : LineId) (new : SourceDescriptor) :
    (described n new s).line m = if m = n then { s.line n with desc := new } else s.line m := by
  by_cases hm : m = n
  · subst hm
    rw [if_pos rfl, described, State.line_setLine_same]
  · rw [if_neg hm, described, State.line_setLine_ne _ _ _ _ hm]

theorem commitStarved_of_unstarved (hn : (s.line n).starved = none) : commitStarved n old new s = s :=
  if_neg fun h' => by simp [hn] at h'

theorem commitFiring_of_disabled (hoff : new.enabled = false) : commitFiring n old new s = s :=
  if_neg fun h' => by simp [hoff] at h'

theorem onlyPending_noPending_after (hc : s.occ u = some c) (honly : OnlyPending s o u c) (ht : TagAfterFreeing s' t none u)
    (hline : ∀ m, FirstStarvedLine s' m → o ≠ .line m) (hgroup : ∀ k, FirstStarvedGroup s' k → o ≠ .group k)
    (hothers : ∀ v, v ≠ u → t.record v = s.record v) : NoPendingRecord t o := fun v => by
  by_cases hv : v = u
  · subst hv
    cases hd : t.occ v with
    | none => rfl
    | some d =>
      rw [Option.all_some]
      obtain ⟨m, hm, hdo⟩ | ⟨k, hk, hdo⟩ := ht.origin hd
      · rw [hdo, decide_eq_true (Ne.symm (hline m hm))]
        rfl
      · rw [hdo, decide_eq_true (Ne.symm (hgroup k hk))]
        rfl
  · rw [State.occ, hothers v hv]
    exact honly.2.2 v hv

/-- An entry that disables the source withdraws its record (R165 step 2). -/
theorem applyLine_withdraws (hunstarved : (s.line n).starved = none) (hon : (s.line n).desc.enabled = true)
    (hoff : new.enabled = false) (hc : s.occ u = some c) (honly : OnlyPending s (.line n) u c) :
    WithdrawnByCommit s (applyLine n new s) u c ∧ (∀ m, m ≠ n → (applyLine n new s).line m = lineAfterFreeing s m) ∧
      (applyLine n new s).line n = { s.line n with desc := new } ∧
      ∀ k, (applyLine n new s).group k = if (s.line n).desc.group = some k then leftBy n (groupAfterFreeing s u (.line n) k)
        else groupAfterFreeing s u (.line n) k := by
  have hdisables : disables (s.line n).desc new = true := by simp [disables, hon, hoff]
  have hca : (described n new s).occ u = some c := hc
  have hfirst : withdrawnFirst n (s.line n).desc new (described n new s) = freeRecord u (described n new s) := by
    rw [withdrawnFirst, if_pos (by simp [hon, hoff]), withdraw, State.pendingTag_of_onlyPending (s := described n new s) hca honly]
  have hsame : SameStarved (withoutPending s u c) (withoutPending (described n new s) u c) :=
    sameStarved_setLine (s := withoutPending s u c) hunstarved hunstarved
  obtain ⟨htag, hrecords, ⟨hlines, -⟩, hgroups⟩ := tagFreed_of_pending hca honly.2.1
  obtain ⟨⟨y, z, hform⟩, hmline, hmgroup⟩ := commitMembership_fields n (s.line n).desc new (described n new s)
  rw [hfirst] at hform hmline hmgroup
  have hnotFirst : ∀ m, FirstStarvedLine (withoutPending (described n new s) u c) m → Origin.line n ≠ .line m := by
    rintro m hm ⟨⟩
    exact ((hsame.firstLine n).mp hm).1.2 hunstarved
  obtain ⟨f, hf⟩ : ∃ f, f = freeRecord u (described n new s) := ⟨_, rfl⟩
  rw [← hf] at htag hrecords hlines hgroups hform hmline hmgroup
  obtain ⟨b, hb⟩ : ∃ b, b = commitMembership n (s.line n).desc new (described n new s) := ⟨_, rfl⟩
  rw [← hb] at hform hmline hmgroup
  have hfnone : NoPendingRecord f (.line n) := onlyPending_noPending_after hc honly htag hnotFirst (fun _ _ => nofun) hrecords
  have hbnone : NoPendingRecord b (.line n) := by
    rw [hform]
    exact hfnone
  have hentry : applyLine n new s = b := by
    rw [applyLine_eq, ← hb, commitTerms_of_none _ _ _ hbnone, commitFiring_of_disabled hoff, commitStarved]
    exact if_neg fun h' => by simp [hoff] at h'
  have hown : f.line n = { s.line n with desc := new } := by
    rw [hlines, Machine.lineAfterFreeing, if_neg fun h' => hnotFirst n h' rfl]
    exact (described_line s n n new).trans (if_pos rfl)
  rw [hentry]
  refine ⟨⟨?_, fun v hv => ?_⟩, fun m hm => ?_, ?_, fun k => ?_⟩
  · have htag' : TagAfterFreeing (withoutPending s u c) f none u := hsame.tagAfterFreeing rfl rfl (fun _ => rfl) htag
    rw [hform]
    exact htag'
  · rw [hform]
    exact hrecords v hv
  · rw [hmline, if_neg fun h' => hm h'.1, hlines]
    exact hsame.lineAfterFreeing ((described_line s n m new).trans (if_neg hm))
  · rw [hmline, hown]
    split
    · rw [← hunstarved]
    · rfl
  · rw [hmgroup, hgroups, hsame.groupAfterFreeing rfl, honly.1]
    refine if_congr ⟨fun h' => h'.1, fun h' => ⟨h', ?_⟩⟩ rfl rfl
    rw [leavesGroup, hdisables, Bool.or_true]

/-- The state before the firing of an entry that keeps the PENDING record. -/
def beforeFiring (n : LineId) (new : SourceDescriptor) (s : State) : State :=
  commitTerms (.line n) (s.line n).desc.terms new.terms (commitMembership n (s.line n).desc new (described n new s))

theorem beforeFiring_fields (hunstarved : (s.line n).starved = none) (hkeeps : disables (s.line n).desc new = false)
    (hc : s.occ u = some c) (honly : OnlyPending s (.line n) u c) :
    (∀ m, (beforeFiring n new s).line m = (described n new s).line m) ∧ (beforeFiring n new s).hosts = s.hosts ∧
      OtherRecordsKept u s (beforeFiring n new s) ∧
      MovedAndOpened s (beforeFiring n new s) u c (s.line n).desc.terms new.terms ∧
      (∃ e, (beforeFiring n new s).occ u = some e ∧ e.origin = .line n ∧ e.phase.isPending = true) ∧
      ∀ k, (beforeFiring n new s).group k =
        if (s.line n).desc.group = some k ∧ new.group ≠ some k then leftBy n (s.group k) else s.group k := by
  obtain ⟨⟨y, z, hform⟩, hmline, hmgroup⟩ := commitMembership_fields n (s.line n).desc new (described n new s)
  rw [withdrawnFirst_of_kept (.inl hkeeps)] at hform hmline hmgroup
  have hbline : ∀ m, (commitMembership n (s.line n).desc new (described n new s)).line m = (described n new s).line m :=
    fun m => by
      rw [hmline]
      split
      · next h' =>
        rw [h'.1, described_line, if_pos rfl, ← hunstarved]
      · rfl
  have hbgroup : ∀ k, (commitMembership n (s.line n).desc new (described n new s)).group k =
      if (s.line n).desc.group = some k ∧ new.group ≠ some k then leftBy n (s.group k) else s.group k := fun k => by
    rw [hmgroup]
    refine if_congr (and_congr_right fun hk => ?_) rfl rfl
    rw [leavesGroup, hkeeps, Bool.or_false, decide_eq_true_eq, hk]
    exact ne_comm
  obtain ⟨b, hb⟩ : ∃ b, b = commitMembership n (s.line n).desc new (described n new s) := ⟨_, rfl⟩
  rw [beforeFiring, ← hb]
  rw [← hb] at hform hbline hbgroup
  have htag : b.pendingTag (.line n) = some u := by
    rw [hform]
    exact State.pendingTag_of_onlyPending (s := s) hc honly
  have hcb : b.occ u = some c := by
    rw [hform]
    exact hc
  obtain ⟨hmoved, hothers, e, he, horigin, hpending⟩ :=
    movedAndOpened_commitTerms (s.line n).desc.terms new.terms htag hcb
  obtain ⟨y', z', hterms⟩ := commitTerms_eq (.line n) (s.line n).desc.terms new.terms b
  obtain ⟨k, hk⟩ : ∃ k, k = commitTerms (.line n) (s.line n).desc.terms new.terms b := ⟨_, rfl⟩
  rw [← hk] at hmoved hothers he hterms ⊢
  refine ⟨fun m => ?_, ?_, ?_, ?_, ⟨e, he, horigin.trans honly.1, hpending⟩, fun g => ?_⟩
  · rw [← hbline, hterms]
    rfl
  · rw [hterms, hform]
    rfl
  · rw [hform] at hothers
    exact hothers
  · rw [hform] at hmoved
    exact hmoved
  · rw [← hbgroup, hterms]
    rfl

/-- The firing of an entry that enables the source, or changes its sense or group (R165 step 7). -/
def firesAtCommit (old new : SourceDescriptor) : Bool :=
  !old.enabled || decide (old.sense ≠ new.sense) || decide (old.group ≠ new.group)

theorem commitFiring_eq (hon : new.enabled = true) : commitFiring n old new s =
    if firesAtCommit old new = true then levelTest n (retakeReference n s) else s := by
  rw [commitFiring]
  refine if_congr ?_ rfl rfl
  simp [hon, firesAtCommit, or_assoc]

theorem not_noLiveRecord (hc : s.occ u = some c) (horigin : c.origin = o) : ¬ NoLiveRecord s o := fun hnone => by
  have hu := hnone u
  rw [hc, Option.all_some, decide_eq_true_eq] at hu
  exact hu horigin

theorem stands_of_desc {y : LineSource} (hy : s.line n = y) :
    s.stands n = y.filter.any (fun f => decide (AtActiveLevel y.desc.sense f.filtered)) := by
  rw [State.stands_eq, hy]

/-- A source whose origin has a live record fires to its group, or nothing happens. -/
theorem commitFiring_of_live (hon : new.enabled = true) (hdesc : (s.line n).desc = new) (hc : s.occ u = some c)
    (horigin : c.origin = .line n) (fires : Bool) (hfires : fires = (firesAtCommit old new && s.stands n)) :
    OtherLinesKept n s (commitFiring n old new s) ∧ ((commitFiring n old new s).line n).desc = new ∧
      ((commitFiring n old new s).line n).seq = (s.line n).seq ∧
      (fires = false ∨ new.group = none → SamePool s (commitFiring n old new s) ∧ (commitFiring n old new s).groups = s.groups) ∧
      ∀ k, fires = true → new.group = some k →
        MemberTriggered s (commitFiring n old new s) n k (s.group k).desc.terms w ∧
          OtherGroupsKept k s (commitFiring n old new s) := by
  rw [commitFiring_eq hon]
  by_cases hchanged : firesAtCommit old new = true
  · rw [if_pos hchanged]
    rw [hchanged, Bool.true_and] at hfires
    obtain ⟨y, hy⟩ := retakeReference_eq s n
    have hline := retakeReference_line s n
    have hstands := retakeReference_stands s n
    obtain ⟨r, hr⟩ : ∃ r, r = retakeReference n s := ⟨_, rfl⟩
    rw [← hr] at hy hline hstands ⊢
    have hrdesc : (r.line n).desc = new := by rw [hline, if_pos rfl]; exact hdesc
    have hrseq : (r.line n).seq = (s.line n).seq := by rw [hline, if_pos rfl]
    have hrline : OtherLinesKept n s r := fun m hm => by rw [hline, if_neg hm]
    have hrlive : ¬ NoLiveRecord r (.line n) := not_noLiveRecord (s := r) (u := u) (c := c) (by rw [hy]; exact hc) horigin
    obtain ⟨hlines, hkept, hsource, hmember⟩ := levelTest_keeps r n
    rw [hrdesc] at hkept hsource hmember
    cases hfire : s.stands n with
    | false =>
      rw [levelTest_of_not_standing (hstands.trans hfire)]
      refine ⟨hrline, hrdesc, hrseq, fun _ => ?_, fun k htrue => absurd ((hfires.trans hfire).symm.trans htrue) nofun⟩
      rw [hy]
      exact ⟨⟨rfl, rfl⟩, rfl⟩
    | true =>
      have hron : (r.line n).desc.enabled = true := by rw [hrdesc]; exact hon
      cases hgroup : new.group with
      | none =>
        have hnogroup : (r.line n).desc.group = none := by rw [hrdesc]; exact hgroup
        obtain ⟨hquiet, -⟩ := levelFired_levelTest w hron (hstands.trans hfire) hnogroup
        obtain ⟨hown, hrecords, hlists⟩ := hquiet (.inl hrlive)
        refine ⟨fun m hm => (hlines m hm).trans (hrline m hm), hkept, (congrArg LineSource.seq hown).trans hrseq, fun _ => ?_,
          nofun⟩
        have hgroups := hsource hgroup
        rw [SamePool, hrecords, hlists, hgroups, hy]
        exact ⟨⟨rfl, rfl⟩, rfl⟩
      | some k =>
        have hkgroup : (r.line n).desc.group = some k := by rw [hrdesc]; exact hgroup
        obtain ⟨hown, hothers⟩ := hmember k hgroup
        refine ⟨fun m hm => (hlines m hm).trans (hrline m hm), hkept, (congrArg LineSource.seq hown).trans hrseq,
          fun h' => h'.elim (fun hf => absurd ((hfires.trans hfire).symm.trans hf) nofun) nofun, fun k' _ hk' => ?_⟩
        obtain rfl := Option.some.inj hk'
        have htriggered := memberTriggered_memberTrigger r n k w
        rw [← levelTest_of_member hron (hstands.trans hfire) hkgroup] at htriggered
        rw [hy] at htriggered hothers ⊢
        exact ⟨htriggered, hothers⟩
  · rw [if_neg hchanged]
    have hquiet : fires = false := by rw [hfires, Bool.not_eq_true _ |>.mp hchanged, Bool.false_and]
    exact ⟨fun _ _ => rfl, hdesc, rfl, fun _ => ⟨⟨rfl, rfl⟩, rfl⟩, fun k htrue => absurd (hquiet.symm.trans htrue) nofun⟩

/-! ### The entry of a posted source -/

theorem applyPosted_eq (n : PostedId) (new : SourceDescriptor) (s : State) : applyPosted n new s =
    commitTerms (.posted n) (s.posted n).desc.terms new.terms
      (if (s.posted n).desc.enabled ∧ ¬ new.enabled then withdraw (.posted n) (s.setPosted n { s.posted n with desc := new })
        else s.setPosted n { s.posted n with desc := new }) := rfl

theorem applyPosted_withdraws {n : PostedId} (hon : (s.posted n).desc.enabled = true) (hoff : new.enabled = false)
    (hc : s.occ u = some c) (honly : OnlyPending s (.posted n) u c) :
    WithdrawnByCommit s (applyPosted n new s) u c ∧ (∀ m, (applyPosted n new s).line m = lineAfterFreeing s m) ∧
      ∀ k, (applyPosted n new s).group k = groupAfterFreeing s u (.posted n) k := by
  have hca : (s.setPosted n { s.posted n with desc := new }).occ u = some c := hc
  have hfirst : withdraw (.posted n) (s.setPosted n { s.posted n with desc := new }) =
      freeRecord u (s.setPosted n { s.posted n with desc := new }) := by
    rw [withdraw, State.pendingTag_of_onlyPending (s := s.setPosted n { s.posted n with desc := new }) hca honly]
  obtain ⟨htag, hrecords, ⟨hlines, -⟩, hgroups⟩ := tagFreed_of_pending hca honly.2.1
  rw [applyPosted_eq, if_pos (by simp [hon, hoff]), hfirst]
  obtain ⟨f, hf⟩ : ∃ f, f = freeRecord u (s.setPosted n { s.posted n with desc := new }) := ⟨_, rfl⟩
  rw [← hf] at htag hrecords hlines hgroups ⊢
  rw [commitTerms_of_none _ _ _ (onlyPending_noPending_after hc honly htag (fun _ _ => nofun) (fun _ _ => nofun) hrecords)]
  rw [honly.1] at hgroups
  exact ⟨⟨htag, hrecords⟩, hlines, hgroups⟩

theorem applyPosted_keeps {n : PostedId} (hon : new.enabled = true) (hc : s.occ u = some c)
    (honly : OnlyPending s (.posted n) u c) :
    OtherRecordsKept u s (applyPosted n new s) ∧ (applyPosted n new s).lineSources = s.lineSources ∧
      (applyPosted n new s).groups = s.groups ∧
      MovedAndOpened s (applyPosted n new s) u c (s.posted n).desc.terms new.terms := by
  have htag : (s.setPosted n { s.posted n with desc := new }).pendingTag (.posted n) = some u :=
    State.pendingTag_of_onlyPending (s := s.setPosted n { s.posted n with desc := new }) hc honly
  obtain ⟨hmoved, hothers, -⟩ := movedAndOpened_commitTerms (s.posted n).desc.terms new.terms htag hc
  obtain ⟨y, z, hform⟩ := commitTerms_eq (.posted n) (s.posted n).desc.terms new.terms
    (s.setPosted n { s.posted n with desc := new })
  rw [applyPosted_eq, if_neg (by simp [hon])]
  refine ⟨hothers, ?_, ?_, hmoved⟩ <;> rw [hform] <;> rfl

/-! ### The obligation -/

theorem applied_singleton {e : StagedEntry} (hx : x.staging = [e]) : applied x s = applyEntry [e] (sessionRestarted x s) e := by
  rw [applied, hx]
  rfl

/-- Settles O50: an entry for a line source, by whether it disables it, and one for a posted source. -/
theorem commitActsOnThePendingRecord : Obligations.CommitActsOnThePendingRecord := by
  refine ⟨fun s h rt x n d u w c hserves hpresent hopen hholder hstaging hchecked hunstarved hon hc honly => ?_,
    fun s h rt x n d u c hserves hpresent hopen hholder hstaging hchecked hon hc honly => ?_⟩
  · obtain ⟨t, hexec, hsame, -, -, -, -, -⟩ := exec_commit_applied hserves hpresent hopen hholder (by
      rw [hstaging] at hchecked ⊢
      simpa using hchecked)
    rw [applied_singleton hstaging] at hsame
    have hposted := applyLine_postedSources n d (sessionRestarted x s)
    cases hd : d.enabled with
    | false =>
      obtain ⟨hwithdrawn, hlines, hown, hgroups⟩ :=
        applyLine_withdraws (s := sessionRestarted x s) (n := n) (new := d) hunstarved hon hd hc honly
      rw [applyEntry] at hsame
      obtain ⟨f, hf⟩ : ∃ f, f = applyLine n d (sessionRestarted x s) := ⟨_, rfl⟩
      rw [← hf] at hposted hwithdrawn hlines hown hgroups hsame
      have hseq : (f.line n).seq = (s.line n).seq := by
        rw [hown]
        rfl
      obtain ⟨_, _, _, _, rfl⟩ := hsame
      exact ⟨_, hexec, hposted, congrArg LineSource.desc hown, hseq,
        fun _ => ⟨hwithdrawn, hlines, hgroups⟩, nofun⟩
    | true =>
      have hkeeps : disables (s.line n).desc d = false := by simp [disables, hd]
      obtain ⟨hblines, hbhosts, hbothers, hbmoved, ⟨e, he, horigin, hpending⟩, hbgroups⟩ :=
        beforeFiring_fields (s := sessionRestarted x s) (n := n) (new := d) hunstarved hkeeps hc honly
      have hbdescs : (beforeFiring n d (sessionRestarted x s)).descs = (described n d (sessionRestarted x s)).descs := by
        rw [beforeFiring, descs_commitTerms, descs_commitMembership]
      have hentry : applyLine n d (sessionRestarted x s) =
          commitFiring n (s.line n).desc d (beforeFiring n d (sessionRestarted x s)) := by
        rw [applyLine_eq, ← beforeFiring, commitStarved_of_unstarved]
        · rfl
        · rw [hblines, described_line, if_pos rfl]
          exact hunstarved
      rw [applyEntry, hentry] at hsame
      rw [hentry] at hposted
      obtain ⟨b, hb⟩ : ∃ b, b = beforeFiring n d (sessionRestarted x s) := ⟨_, rfl⟩
      rw [← hb] at hblines hbhosts hbothers hbmoved he hbgroups hbdescs hsame hposted
      have hown : b.line n = { s.line n with desc := d } := (hblines n).trans ((described_line _ n n d).trans (if_pos rfl))
      have hseq : (b.line n).seq = (s.line n).seq := by rw [hown]
      have hothers : OtherLinesKept n s b := fun m hm => (hblines m).trans ((described_line _ n m d).trans (if_neg hm))
      have hfiring := fun fires hfires => commitFiring_of_live (w := w) (old := (s.line n).desc) hd
        (congrArg LineSource.desc hown) he horigin fires hfires
      obtain ⟨hlines', hdesc', hseq', -⟩ := hfiring _ rfl
      have hbterms : ∀ k, (b.group k).desc.terms = (s.group k).desc.terms := fun k =>
        congrArg GroupDescriptor.terms (State.group_desc_of_descs hbdescs k)
      obtain ⟨f, hf⟩ : ∃ f, f = commitFiring n (s.line n).desc d b := ⟨_, rfl⟩
      rw [← hf] at hfiring hlines' hdesc' hseq' hsame hposted
      obtain ⟨_, _, _, _, rfl⟩ := hsame
      refine ⟨_, hexec, hposted, hdesc', hseq'.trans hseq, nofun, fun _ =>
        ⟨fun m hm => (hlines' m hm).trans (hothers m hm), b, hbhosts, hbothers, hbmoved, hbgroups, fun fires hfires => ?_⟩⟩
      have hfires' : fires = (firesAtCommit (s.line n).desc d && b.stands n) := by
        rw [hfires, stands_of_desc hown]
        simp only [firesAtCommit, hon, Bool.not_true, Bool.false_or, Bool.decide_or]
      obtain ⟨-, -, -, hquiet, hmember⟩ := hfiring fires hfires'
      refine ⟨hquiet, fun k hk hgroup => ?_⟩
      rw [← hbterms k]
      exact hmember k hk hgroup
  · obtain ⟨t, hexec, hsame, -, -, -, -, -⟩ := exec_commit_applied hserves hpresent hopen hholder (by
      rw [hstaging] at hchecked ⊢
      simpa using hchecked)
    rw [applied_singleton hstaging, applyEntry] at hsame
    have hposted := applyPosted_posted n d (sessionRestarted x s)
    have hwithdrawn := fun hd => applyPosted_withdraws (s := sessionRestarted x s) (new := d) hon hd hc honly
    have hkept := fun hd => applyPosted_keeps (s := sessionRestarted x s) (new := d) hd hc honly
    obtain ⟨f, hf⟩ : ∃ f, f = applyPosted n d (sessionRestarted x s) := ⟨_, rfl⟩
    rw [← hf] at hposted hwithdrawn hkept hsame
    have hlook : ∀ m, f.posted m = (s.setPosted n { s.posted n with desc := d }).posted m := fun m =>
      congrArg (fun y => Table.look y m) hposted
    obtain ⟨_, _, _, _, rfl⟩ := hsame
    exact ⟨_, hexec, (hlook n).trans (State.posted_setPosted_same _ _ _),
      fun m hm => (hlook m).trans (State.posted_setPosted_ne _ _ _ _ hm), hwithdrawn, hkept⟩

end Sys2Proof.Machine
end

section
/-! A COMMIT of an entry for a line source without a PENDING record: marks, collect sets, firing (R165). -/

namespace Sys2Proof.Machine

variable {s s' t m : State} {u v w : Tag} {c : Occurrence} {h : HostId} {n : LineId} {k : GroupId} {rt : RequestTag} {x : Session} {l : List StagedEntry}
  {old new : SourceDescriptor}

/-! ### The firing of an entry, by what the source meets -/

theorem MemberTriggered.of_eq {terms : Terms} (hgroup : s'.group k = s.group k) (hrecords : s'.records = s.records)
    (hlists : s'.lists = s.lists) (hhosts : s'.hosts = s.hosts) (ht : MemberTriggered s' t n k terms u) :
    MemberTriggered s t n k terms u := by
  have hrecord : ∀ v, s'.record v = s.record v := fun v => by rw [State.record, hrecords, State.record]
  have hocc : ∀ v, s'.occ v = s.occ v := fun v => by rw [State.occ, hrecord, State.occ]
  have hlist : ∀ l, s'.list l = s.list l := fun l => by rw [State.list, hlists, State.list]
  have hhost : ∀ p, s'.host p = s.host p := fun p => by rw [State.host, hhosts, State.host]
  simpa only [MemberTriggered, EntersPending, EnteredRecord, WindowHolds, LowestFree, SamePool, OtherRecordsKept, hgroup, hrecord,
    hocc, hlist, hlists, hrecords, hhost] using ht

/-- The source with its reference level re-taken, where the entry fires (R19). -/
def refiltered (old new : SourceDescriptor) (y : LineSource) : LineSource :=
  { y with filter := if firesAtCommit old new then y.filter.map retaken else y.filter }

theorem commitFiring_quiet (hon : new.enabled = true) (hquiet : firesAtCommit old new = false ∨ m.stands n = false) :
    (commitFiring n old new m).line n = refiltered old new (m.line n) ∧ SamePool m (commitFiring n old new m) ∧
      (commitFiring n old new m).groups = m.groups := by
  rw [commitFiring_eq hon]
  cases hf : firesAtCommit old new with
  | false =>
    refine ⟨?_, ⟨rfl, rfl⟩, rfl⟩
    simp [refiltered, hf]
  | true =>
    have hnot : m.stands n = false := hquiet.resolve_left fun h' => absurd (hf.symm.trans h') nofun
    rw [if_pos rfl, levelTest_of_not_standing ((retakeReference_stands m n).trans hnot), retakeReference_line, if_pos rfl]
    obtain ⟨y, hy⟩ := retakeReference_eq m n
    rw [hy]
    refine ⟨?_, ⟨rfl, rfl⟩, rfl⟩
    simp [refiltered, hf]

/-- A source that stands is tested with its reference level re-taken. -/
theorem commitFiring_standing (hon : new.enabled = true) (hdesc : (m.line n).desc = new) (hfires : firesAtCommit old new = true)
    (hstands : m.stands n = true) : ∃ r : State, (∃ y, r = { m with lineSources := y }) ∧ r.stands n = true ∧
      r.line n = refiltered old new (m.line n) ∧ (r.line n).desc = new ∧ (r.line n).desc.enabled = true ∧
      commitFiring n old new m = levelTest n r := by
  have hline := (retakeReference_line m n n).trans (if_pos rfl)
  refine ⟨retakeReference n m, retakeReference_eq m n, (retakeReference_stands m n).trans hstands, ?_, ?_, ?_, ?_⟩
  · rw [hline, refiltered, if_pos hfires]
  · rw [hline]
    exact hdesc
  · rw [hline]
    exact hdesc ▸ hon
  · rw [commitFiring_eq hon, if_pos hfires]

theorem commitFiring_ungrouped (hon : new.enabled = true) (hdesc : (m.line n).desc = new) (hfires : firesAtCommit old new = true)
    (hstands : m.stands n = true) (hgroup : new.group = none) (u : Tag) :
    (commitFiring n old new m).groups = m.groups ∧
    (¬ NoLiveRecord m (.line n) ∨ (m.line n).starved ≠ none →
      (commitFiring n old new m).line n = refiltered old new (m.line n) ∧ SamePool m (commitFiring n old new m)) ∧
    (NoLiveRecord m (.line n) → (m.line n).starved = none →
      (LowestFree m u →
        (commitFiring n old new m).line n = { refiltered old new (m.line n) with seq := (m.line n).seq + 1 } ∧
        EntersPending m (commitFiring n old new m) u new.terms
          (createdFields (.line n) ((m.line n).seq + 1) new.terms.level 0 none 0)) ∧
      ((∀ v, m.occ v ≠ none) →
        (commitFiring n old new m).line n = { refiltered old new (m.line n) with starved := some 1 } ∧
        SamePool m (commitFiring n old new m))) := by
  obtain ⟨r, ⟨y, hy⟩, hrstands, hrline, hrdesc, hron, htest⟩ := commitFiring_standing hon hdesc hfires hstands
  have hnogroup : (r.line n).desc.group = none := by rw [hrdesc]; exact hgroup
  have hchange := sourceChange_levelTest r hnogroup
  obtain ⟨hquiet, hfired⟩ := levelFired_levelTest u hron hrstands hnogroup
  have hstarved : (r.line n).starved = (m.line n).starved := by rw [hrline]; rfl
  have hseq : (r.line n).seq = (m.line n).seq := by rw [hrline]; rfl
  rw [← htest] at hchange hquiet hfired
  rw [hrdesc, hseq, hstarved] at hfired
  rw [hstarved] at hquiet
  rw [hrline] at hquiet hfired
  obtain ⟨f, hf⟩ : ∃ f, f = commitFiring n old new m := ⟨_, rfl⟩
  rw [← hf] at hchange hquiet hfired ⊢
  refine ⟨hchange.groups.trans (by rw [hy]), ?_, ?_⟩
  · rw [hy] at hquiet
    exact hquiet
  · rw [hy] at hfired
    exact hfired

theorem commitFiring_member (hon : new.enabled = true) (hdesc : (m.line n).desc = new) (hfires : firesAtCommit old new = true)
    (hstands : m.stands n = true) (hgroup : new.group = some k) (u : Tag) :
    (commitFiring n old new m).line n = refiltered old new (m.line n) ∧
      MemberTriggered m (commitFiring n old new m) n k (m.group k).desc.terms u ∧
      OtherGroupsKept k m (commitFiring n old new m) := by
  obtain ⟨r, ⟨y, hy⟩, hrstands, hrline, hrdesc, hron, htest⟩ := commitFiring_standing hon hdesc hfires hstands
  have hkgroup : (r.line n).desc.group = some k := by rw [hrdesc]; exact hgroup
  have htriggered := memberTriggered_memberTrigger r n k u
  have hchange := groupChange_memberTrigger n k r
  rw [← levelTest_of_member hron hrstands hkgroup, ← htest] at htriggered hchange
  refine ⟨?_, ?_, ?_⟩
  · rw [State.line, hchange.lines]
    exact hrline
  · rw [hy] at htriggered
    exact htriggered
  · have hothers := hchange.groups
    rw [hy] at hothers
    exact hothers

theorem commitFiring_otherLines (n : LineId) (old new : SourceDescriptor) (m : State) :
    OtherLinesKept n m (commitFiring n old new m) := by
  unfold commitFiring
  split
  · intro i hi
    exact ((levelTest_keeps _ n).1 i hi).trans ((retakeReference_line m n i).trans (if_neg hi))
  · exact fun _ _ => rfl

theorem commitFiring_otherGroups (hdesc : (m.line n).desc = new)
    (hnot : new.group ≠ some k ∨ new.enabled = false ∨ firesAtCommit old new = false ∨ m.stands n = false) :
    (commitFiring n old new m).group k = m.group k := by
  have hof : ∀ {t : State}, t.groups = m.groups → t.group k = m.group k := fun ht => by rw [State.group, ht, State.group]
  cases hon : new.enabled with
  | false => rw [commitFiring_of_disabled hon]
  | true =>
    by_cases hquiet : firesAtCommit old new = false ∨ m.stands n = false
    · exact hof (commitFiring_quiet hon hquiet).2.2
    · simp only [not_or, Bool.not_eq_false] at hquiet
      obtain ⟨hfires, hstands⟩ := hquiet
      have hk : new.group ≠ some k := by simpa [hon, hfires, hstands] using hnot
      cases hgroup : new.group with
      | none => exact hof (commitFiring_ungrouped hon hdesc hfires hstands hgroup 0).1
      | some k' => exact (commitFiring_member hon hdesc hfires hstands hgroup 0).2.2 k fun heq => hk (heq ▸ hgroup)

/-! ### The marks before the firing (R25) -/

theorem commitStarved_keeps (n : LineId) (old new : SourceDescriptor) (s : State) :
    (commitStarved n old new s).lists = s.lists ∧ (commitStarved n old new s).hosts = s.hosts ∧
      (commitStarved n old new s).groups = s.groups ∧ OtherLinesKept n s (commitStarved n old new s) ∧
      ∃ y, (commitStarved n old new s).line n = { s.line n with starved := y } := by
  have hkept : ∀ y, OtherLinesKept n s (setLineStarved n y s) ∧
      (setLineStarved n y s).line n = { s.line n with starved := y } := fun y =>
    ⟨fun i hi => (setLineStarved_line s n i y).trans (if_neg hi), (setLineStarved_line s n n y).trans (if_pos rfl)⟩
  unfold commitStarved
  split
  · split
    · exact ⟨rfl, rfl, rfl, (hkept _).1, _, (hkept _).2⟩
    · split
      · split
        · next v _ =>
          obtain ⟨z, hz⟩ : ∃ z, setAgain v (setLineStarved n none s) = { setLineStarved n none s with records := z } := by
            unfold setAgain
            split
            · exact ⟨_, rfl⟩
            · exact ⟨_, rfl⟩
          rw [hz]
          exact ⟨rfl, rfl, rfl, (hkept none).1, none, (hkept none).2⟩
        · exact ⟨rfl, rfl, rfl, fun _ _ => rfl, _, rfl⟩
      · exact ⟨rfl, rfl, rfl, fun _ _ => rfl, _, rfl⟩
  · exact ⟨rfl, rfl, rfl, fun _ _ => rfl, _, rfl⟩

/-- The mark of a source made level-sensed outside groups (R25). -/
theorem commitStarved_of_level (hon : new.enabled = true) (hlevel : new.sense.isLevel = true) :
    SamePool s (commitStarved n old new s) ∧ ((commitStarved n old new s).line n).starved =
      if new.group = none ∧ (s.line n).starved ≠ none ∧ old.sense ≠ new.sense then
        (if s.stands n = true ∧ NoLiveRecord s (.line n) then some 1 else none)
      else (s.line n).starved := by
  have hset : commitStarved n old new s =
      if new.group = none ∧ (s.line n).starved ≠ none ∧ old.sense ≠ new.sense then
        setLineStarved n (if s.stands n = true ∧ NoLiveRecord s (.line n) then some 1 else none) s else s := by
    simp only [commitStarved, hon, hlevel, State.liveTags_isEmpty_iff, Option.isSome_iff_ne_none, not_true, and_false, and_true,
      true_and, if_false]
    by_cases hgroup : new.group = none <;> by_cases hstarved : (s.line n).starved = none <;> simp [hgroup, hstarved]
  rw [hset]
  split
  · refine ⟨⟨rfl, rfl⟩, ?_⟩
    rw [setLineStarved_line, if_pos rfl]
  · exact ⟨⟨rfl, rfl⟩, rfl⟩

/-- The mark passes to the one CLAIMED record as Again. -/
def passesMark (s : State) (n : LineId) (old new : SourceDescriptor) : Bool :=
  decide (new.group = none ∧ (s.line n).starved ≠ none ∧ old.clearPolicy = .onClaim ∧ new.clearPolicy = .onComplete) &&
    !decide (NoClaimedRecord s (.line n))

theorem commitStarved_of_edge (hon : new.enabled = true) (hedge : new.sense.isLevel = false) :
    commitStarved n old new s = if passesMark s n old new = true then
      ((s.claimedTag (.line n)).elim s fun v => setAgain v (setLineStarved n none s)) else s := by
  have hclaimed := State.claimedTag_eq_none_iff (s := s) (.line n)
  simp only [commitStarved, passesMark, hon, hedge, Option.isSome_iff_ne_none, Bool.false_eq_true, not_false_iff, and_false,
    and_true, true_and, if_false, Bool.and_eq_true, decide_eq_true_eq, Bool.not_eq_true', decide_eq_false_iff_not, ← hclaimed]
  cases htag : s.claimedTag (.line n) with
  | none => simp
  | some v =>
    by_cases hgroup : new.group = none <;> by_cases hstarved : (s.line n).starved = none <;> simp [hgroup, hstarved]

theorem only_live {v' : Tag} {o : Origin} {d : Occurrence} (hone : (s.liveTags o).length ≤ 1) (hc : s.occ v = some c)
    (hco : c.origin = o) (hd : s.occ v' = some d) (hdo : d.origin = o) : v = v' := by
  have hmem : ∀ {w : Tag} {e : Occurrence}, s.occ w = some e → e.origin = o → w ∈ s.liveTags o := fun hw he => by
    simp [State.liveTags, State.isLiveOf, mem_tags, hw, he]
  have hv := hmem hc hco
  have hv' := hmem hd hdo
  generalize s.liveTags o = l at hone hv hv'
  match l, hone with
  | [], _ => cases hv
  | [a], _ => exact (List.mem_singleton.mp hv).trans (List.mem_singleton.mp hv').symm

/-- Where the source is edge-sensed, at most the Again mark of its one live record changes. -/
theorem commitStarved_again (hon : new.enabled = true) (hedge : new.sense.isLevel = false)
    (hone : passesMark s n old new = true → (s.liveTags (.line n)).length ≤ 1) :
    (∀ v, (commitStarved n old new s).record v = { s.record v with occ := (s.occ v).map (fun c =>
        if passesMark s n old new = true ∧ c.origin = .line n then { c with again := true } else c) }) ∧
      ((commitStarved n old new s).line n).starved = if passesMark s n old new = true then none else (s.line n).starved := by
  rw [commitStarved_of_edge hon hedge]
  cases hpass : passesMark s n old new with
  | false => simp [State.occ]
  | true =>
    cases htag : s.claimedTag (.line n) with
    | none =>
      have hno := (State.claimedTag_eq_none_iff (s := s) (.line n)).mp htag
      rw [passesMark, decide_eq_true hno, Bool.not_true, Bool.and_false] at hpass
      cases hpass
    | some v =>
      obtain ⟨c, hc, horigin, -⟩ := State.occ_of_claimedTag htag
      obtain ⟨hown, hothers, -, hlines⟩ := setAgain_record (setLineStarved n none s) v
      rw [if_pos rfl, Option.elim_some]
      refine ⟨fun v' => ?_, ?_⟩
      · by_cases hv : v' = v
        · subst hv
          rw [hown, show (setLineStarved n none s).record v' = s.record v' from rfl,
            show (setLineStarved n none s).occ v' = s.occ v' from rfl, hc]
          simp [horigin]
        · rw [hothers v' hv, show (setLineStarved n none s).record v' = s.record v' from rfl]
          cases hd : s.occ v' with
          | none => exact record_of_free hd
          | some d =>
            have hnot : d.origin ≠ .line n := fun hdo => hv (only_live (hone hpass) hd hdo hc horigin)
            simp only [Option.map_some, hnot, and_false, if_false]
            rw [← hd]
            rfl
      · rw [State.line, hlines]
        exact congrArg LineSource.starved ((setLineStarved_line s n n none).trans (if_pos rfl))

/-! ### The entry of a source without a PENDING record -/

/-- Steps 1 to 5 on a source without a PENDING record: descriptor, mark and collect set. -/
theorem beforeFiring_of_none (hnone : NoPendingRecord s (.line n)) :
    (∃ y z, beforeFiring n new s = { s with lineSources := y, groups := z }) ∧ OtherLinesKept n s (beforeFiring n new s) ∧
      (beforeFiring n new s).line n = { s.line n with
        desc := new, starved := if takesMark (s.line n).desc new then none else (s.line n).starved } ∧
      ∀ k, (beforeFiring n new s).group k =
        if (s.line n).desc.group = some k ∧ leavesGroup (s.line n).desc new = true then leftBy n (s.group k) else s.group k := by
  obtain ⟨⟨y, z, hform⟩, hline, hgroup⟩ := commitMembership_fields n (s.line n).desc new (described n new s)
  rw [withdrawnFirst_of_kept (s := described n new s) (.inr hnone)] at hform hline hgroup
  have hbefore : beforeFiring n new s = commitMembership n (s.line n).desc new (described n new s) := by
    rw [beforeFiring]
    exact commitTerms_of_none _ _ _ (by rw [hform]; exact hnone)
  rw [hbefore]
  refine ⟨⟨y, z, hform⟩, fun i hi => ?_, ?_, hgroup⟩
  · rw [hline, if_neg fun h' => hi h'.1, described_line, if_neg hi]
  · rw [hline, described_line, if_pos rfl]
    by_cases htakes : takesMark (s.line n).desc new = true <;> simp [htakes]

theorem commitStarved_of_disabled (hoff : new.enabled = false) : commitStarved n old new s = s :=
  if_neg fun h' => by simp [hoff] at h'

/-- The entry before step 7. -/
def marked (n : LineId) (new : SourceDescriptor) (s : State) : State :=
  commitStarved n (s.line n).desc new (beforeFiring n new s)

theorem marked_keeps (hnone : NoPendingRecord s (.line n)) :
    (marked n new s).lists = s.lists ∧ (marked n new s).hosts = s.hosts ∧ OtherLinesKept n s (marked n new s) ∧
      (∃ y, (marked n new s).line n = { s.line n with desc := new, starved := y }) ∧
      ∀ k, (marked n new s).group k =
        if (s.line n).desc.group = some k ∧ leavesGroup (s.line n).desc new = true then leftBy n (s.group k) else s.group k := by
  obtain ⟨⟨y, z, hform⟩, hothers, hown, hgroups⟩ := beforeFiring_of_none (new := new) hnone
  obtain ⟨hlists, hhosts, hgroup, hlines, y', hline⟩ := commitStarved_keeps n (s.line n).desc new (beforeFiring n new s)
  refine ⟨hlists.trans (by rw [hform]), hhosts.trans (by rw [hform]), fun i hi => (hlines i hi).trans (hothers i hi),
    ⟨y', hline.trans (by rw [hown])⟩, fun k => ?_⟩
  rw [← hgroups, State.group, marked, hgroup, State.group]

theorem marked_of_disabled (hnone : NoPendingRecord s (.line n)) (hoff : new.enabled = false) :
    SamePool s (marked n new s) ∧ (marked n new s).line n = { s.line n with
      desc := new, starved := if takesMark (s.line n).desc new then none else (s.line n).starved } := by
  obtain ⟨⟨y, z, hform⟩, -, hown, -⟩ := beforeFiring_of_none (new := new) hnone
  rw [marked, commitStarved_of_disabled hoff]
  refine ⟨?_, hown⟩
  rw [hform]
  exact ⟨rfl, rfl⟩

theorem takesMark_of_enabled (hon : new.enabled = true) :
    (takesMark old new = true) ↔ old.group ≠ new.group ∧ new.group ≠ none := by
  simp [takesMark, disables, hon, Option.isSome_iff_ne_none]

theorem takesMark_of_disabled (hoff : new.enabled = false) :
    (takesMark old new = true) ↔ old.enabled = true ∨ (old.group ≠ new.group ∧ new.group ≠ none) := by
  simp [takesMark, disables, hoff, Option.isSome_iff_ne_none]

/-- The mark that an entry leaves on a source that it makes or leaves level-sensed. -/
def levelMark (s : State) (n : LineId) (new : SourceDescriptor) (stands : Bool) : Option Nat :=
  if (s.line n).desc.group ≠ new.group ∧ new.group ≠ none then none
  else if new.group = none ∧ (s.line n).starved ≠ none ∧ (s.line n).desc.sense ≠ new.sense then
    (if stands = true ∧ NoLiveRecord s (.line n) then some 1 else none)
  else (s.line n).starved

theorem marked_of_level (hnone : NoPendingRecord s (.line n)) (hon : new.enabled = true) (hlevel : new.sense.isLevel = true)
    {stands : Bool} (hstands : stands = (s.line n).filter.any (fun f => decide (AtActiveLevel new.sense f.filtered))) :
    SamePool s (marked n new s) ∧ (marked n new s).line n =
      { s.line n with desc := new, starved := levelMark s n new stands } := by
  obtain ⟨⟨y, z, hform⟩, -, hown, -⟩ := beforeFiring_of_none (new := new) hnone
  obtain ⟨hpool, hstarved⟩ := commitStarved_of_level (s := beforeFiring n new s) (n := n) (old := (s.line n).desc) hon hlevel
  obtain ⟨-, -, -, -, y', hline⟩ := commitStarved_keeps n (s.line n).desc new (beforeFiring n new s)
  have hbstands : (beforeFiring n new s).stands n = stands := (stands_of_desc hown).trans hstands.symm
  have hlive : NoLiveRecord (beforeFiring n new s) (.line n) ↔ NoLiveRecord s (.line n) := by rw [hform]; rfl
  have hmark : ((marked n new s).line n).starved = levelMark s n new stands := by
    rw [marked, hstarved, hbstands]
    simp only [hlive, hown, takesMark_of_enabled hon, levelMark]
    by_cases hgroup : new.group = none <;> by_cases hmoved : (s.line n).desc.group = new.group <;> simp [hgroup, hmoved]
  rw [marked] at hmark ⊢
  rw [hline] at hmark
  refine ⟨?_, ?_⟩
  · rw [hform] at hpool
    rw [hform]
    exact hpool
  · rw [hline, ← hmark, hown]

theorem passesMark_beforeFiring (hnone : NoPendingRecord s (.line n)) (hon : new.enabled = true) :
    passesMark (beforeFiring n new s) n (s.line n).desc new = passesMark s n (s.line n).desc new := by
  obtain ⟨⟨y, z, hform⟩, -, hown, -⟩ := beforeFiring_of_none (new := new) hnone
  have hclaimed : NoClaimedRecord (beforeFiring n new s) (.line n) ↔ NoClaimedRecord s (.line n) := by rw [hform]; rfl
  have htakes := takesMark_of_enabled (old := (s.line n).desc) hon
  simp only [passesMark, hclaimed, hown, htakes]
  by_cases hgroup : new.group = none <;> simp [hgroup]

theorem marked_of_edge (hnone : NoPendingRecord s (.line n)) (hon : new.enabled = true) (hedge : new.sense.isLevel = false)
    (hone : passesMark s n (s.line n).desc new = true → (s.liveTags (.line n)).length ≤ 1) :
    (∀ v, (marked n new s).record v = { s.record v with occ := (s.occ v).map (fun c =>
        if passesMark s n (s.line n).desc new = true ∧ c.origin = .line n then { c with again := true } else c) }) ∧
      (marked n new s).line n = { s.line n with
        desc := new
        starved := if passesMark s n (s.line n).desc new = true ∨ ((s.line n).desc.group ≠ new.group ∧ new.group ≠ none) then none
          else (s.line n).starved } := by
  obtain ⟨⟨y, z, hform⟩, -, hown, -⟩ := beforeFiring_of_none (new := new) hnone
  have hpasses := passesMark_beforeFiring hnone hon
  obtain ⟨hrecords, hstarved⟩ := commitStarved_again (s := beforeFiring n new s) (n := n) (old := (s.line n).desc) hon hedge
    (by rw [hpasses, hform]; exact hone)
  obtain ⟨-, -, -, -, y', hline⟩ := commitStarved_keeps n (s.line n).desc new (beforeFiring n new s)
  rw [hpasses] at hrecords hstarved
  refine ⟨fun v => ?_, ?_⟩
  · rw [marked, hrecords, hform]
    rfl
  · rw [hline] at hstarved
    rw [marked, hline, hown]
    rw [hown] at hstarved
    have hmark : y' = if passesMark s n (s.line n).desc new = true then none
        else if takesMark (s.line n).desc new = true then none else (s.line n).starved := hstarved
    simp only [hmark, takesMark_of_enabled hon, ite_or]


theorem leavesGroup_iff : leavesGroup old new = true ↔ old.group ≠ new.group ∨ (old.enabled = true ∧ new.enabled = false) := by
  simp [leavesGroup, disables]

/-- An entry that passes its check and passes a mark on meets at most one live record. -/
theorem liveTags_length_of_passes (hcheck : failsCheck s l (.line n new) = none) (hpass : passesMark s n (s.line n).desc new = true) :
    (s.liveTags (.line n)).length ≤ 1 := by
  simp only [passesMark, Bool.and_eq_true, decide_eq_true_eq] at hpass
  obtain ⟨⟨-, -, honClaim, honComplete⟩, -⟩ := hpass
  unfold failsCheck at hcheck
  dsimp only at hcheck
  split at hcheck
  · cases hcheck
  · split at hcheck
    · cases hcheck
    · next hnot => exact Nat.le_of_not_lt fun hlt => hnot ⟨hlt, .inl ⟨honClaim, honComplete⟩⟩

/-- Settles O51: the marks of the entry, then its firing. -/
theorem commitMarksAndFires : Obligations.CommitMarksAndFires := by
  intro s h rt x n d u hserves hpresent hopen hholder hstaging hchecked hnone
  obtain ⟨t, hexec, hsame, -, -, -, hattn, -⟩ := exec_commit_applied hserves hpresent hopen hholder (by
    rw [hstaging] at hchecked ⊢
    simpa using hchecked)
  have hposted := applyLine_postedSources n d (sessionRestarted x s)
  rw [applied_singleton hstaging, applyEntry] at hsame
  obtain ⟨hmlists, hmhosts, hmothers, ⟨mark', hmline⟩, hmgroups⟩ := marked_keeps (s := sessionRestarted x s) (n := n) (new := d) hnone
  have hmoff := marked_of_disabled (s := sessionRestarted x s) (n := n) (new := d) hnone
  have hmedge := fun hon hedge => marked_of_edge (s := sessionRestarted x s) (n := n) (new := d) hnone hon hedge
    (liveTags_length_of_passes hchecked)
  have hmlevel := fun hon hlevel stands => marked_of_level (s := sessionRestarted x s) (n := n) (new := d) (stands := stands) hnone hon hlevel
  have hentry : applyLine n d (sessionRestarted x s) =
      commitFiring n (s.line n).desc d (marked n d (sessionRestarted x s)) := rfl
  rw [hentry] at hposted hsame
  obtain ⟨m, hm⟩ : ∃ m, m = marked n d (sessionRestarted x s) := ⟨_, rfl⟩
  rw [← hm] at hposted hsame hmlists hmhosts hmothers hmline hmgroups hmoff hmedge hmlevel
  have hmdesc : (m.line n).desc = d := by rw [hmline]
  have hlines := commitFiring_otherLines n (s.line n).desc d m
  have hdesc := (State.line_desc_of_descs (descs_commitFiring m n (s.line n).desc d) n).trans hmdesc
  have hgroups := fun k => commitFiring_otherGroups (k := k) (old := (s.line n).desc) hmdesc
  have hoff := fun hd => commitFiring_of_disabled (n := n) (old := (s.line n).desc) (s := m) (new := d) hd
  have hquiet := fun hon => commitFiring_quiet (n := n) (old := (s.line n).desc) (m := m) (new := d) hon
  have hungrouped := fun hon hf hs hg => commitFiring_ungrouped (old := (s.line n).desc) hon hmdesc hf hs hg u
  have hmember := fun hon hf hs k hg => commitFiring_member (k := k) (old := (s.line n).desc) hon hmdesc hf hs hg u
  obtain ⟨f, hf⟩ : ∃ f, f = commitFiring n (s.line n).desc d m := ⟨_, rfl⟩
  rw [← hf] at hposted hsame hlines hdesc hgroups hquiet hungrouped hmember
  replace hoff := fun hd => hf.trans (hoff hd)
  clear hf
  obtain ⟨_, _, _, _, rfl⟩ := hsame
  refine ⟨_, hexec, fun i hi => (hlines i hi).trans (hmothers i hi), hposted, hdesc, hattn, ?_⟩
  rintro old rfl changed hchanged stands hstands
  have hfires : firesAtCommit (s.line n).desc d = changed := by
    rw [hchanged]
    simp [firesAtCommit]
  have hmstands : m.stands n = stands := by
    rw [stands_of_desc hmline]
    exact hstands.symm
  rw [hfires, hmstands] at hquiet hungrouped hmember
  refine ⟨fun k hk => ?_, fun hd => ?_, fun hd hedge => ?_, fun hd hlevel => ?_⟩
  · refine (hgroups k (by rwa [hfires, hmstands])).trans ((hmgroups k).trans ?_)
    exact if_congr (and_congr_right fun _ => leavesGroup_iff) rfl rfl
  · obtain ⟨hpool, hline⟩ := hmoff hd
    obtain rfl := hoff hd
    simp only [takesMark_of_disabled hd] at hline
    exact ⟨hline, hpool⟩
  · have hstill : stands = false := by
      rw [← hmstands]
      simp [State.stands, hmdesc, hedge]
    obtain ⟨hline, hpool, -⟩ := hquiet hd (.inr hstill)
    obtain ⟨hrecords, hmarked⟩ := hmedge hd hedge
    refine ⟨hpool.2.trans hmlists, fun passes hpasses => ⟨fun v => ?_, ?_⟩⟩
    · have hkept : f.record v = m.record v := by rw [State.record, hpool.1, State.record]
      rw [hpasses]
      exact hkept.trans (hrecords v)
    · rw [hmarked, refiltered, hfires] at hline
      rw [hpasses]
      exact hline
  · intro mark hmark after hafter
    obtain ⟨hpool, hline⟩ := hmlevel hd hlevel stands hstands
    have hmafter : refiltered (s.line n).desc d (m.line n) = after := by
      rw [hline, hafter, hmark, refiltered, hfires]
      rfl
    have hmstarved : (m.line n).starved = mark := by
      rw [hline, hmark]
      rfl
    have hmseq : (m.line n).seq = (s.line n).seq := by rw [hline]; rfl
    have hocc : ∀ v, m.occ v = s.occ v := fun v => by
      rw [State.occ, State.record, hpool.1]
      rfl
    have hlive : NoLiveRecord m (.line n) ↔ NoLiveRecord s (.line n) := by simp only [NoLiveRecord, hocc]
    rw [hmafter] at hquiet hungrouped hmember
    rw [hmstarved, hmseq, hlive] at hungrouped
    refine ⟨fun hnot => ?_, fun hc hs hgroup hunmarked hno => ?_, fun k hc hs hgroup => ?_⟩
    · have hkept : f.line n = after ∧ SamePool m f := by
        by_cases hq : changed = false ∨ stands = false
        · obtain ⟨hown, hsame, -⟩ := hquiet hd hq
          exact ⟨hown, hsame⟩
        · simp only [not_or, Bool.not_eq_false] at hq
          obtain ⟨hc, hs⟩ := hq
          obtain ⟨hgroup, hno⟩ : d.group = none ∧ (mark ≠ none ∨ ¬ NoLiveRecord s (.line n)) := by simpa [hc, hs] using hnot
          obtain ⟨-, hstays, -⟩ := hungrouped hd hc hs hgroup
          exact hstays hno.symm
      exact ⟨hkept.1, hkept.2.1.trans hpool.1, hkept.2.2.trans hpool.2⟩
    · obtain ⟨-, -, hfired⟩ := hungrouped hd hc hs hgroup
      obtain ⟨hfree, hfull⟩ := hfired hno hunmarked
      refine ⟨fun hu => ?_, fun hu => ?_⟩
      · obtain ⟨hown, hentered⟩ := hfree (by simpa only [LowestFree, hocc] using hu)
        refine ⟨hown, EntersPending.of_eq (s' := m) (fun v => ?_) (fun l => ?_) (fun p => ?_) hentered⟩
        · rw [State.record, hpool.1]
          rfl
        · rw [State.list, hpool.2]
          rfl
        · rw [State.host, hmhosts]
          rfl
      · obtain ⟨hown, hsame⟩ := hfull (by simpa only [hocc] using hu)
        exact ⟨hown, hsame.1.trans hpool.1, hsame.2.trans hpool.2⟩
    · obtain ⟨hown, htriggered, hothers⟩ := hmember hd hc hs k hgroup
      have hkgroup : m.group k = s.group k := by
        refine (hmgroups k).trans (if_neg fun hleft => ?_)
        obtain ⟨hold, hleaves⟩ := hleft
        rcases leavesGroup_iff.mp hleaves with hmoved | hdis
        · exact hmoved (hold.trans hgroup.symm)
        · exact absurd (hd.symm.trans hdis.2) nofun
      rw [hkgroup] at htriggered
      refine ⟨hown, MemberTriggered.of_eq (s' := m) hkgroup hpool.1 hpool.2 hmhosts htriggered, fun j hj => ?_⟩
      refine (hothers j hj).trans ((hmgroups j).trans (if_congr (and_iff_left_of_imp fun hold => ?_) rfl rfl))
      exact leavesGroup_iff.mpr (.inl fun hmoved => hj (Option.some.inj (hold.symm.trans (hmoved.trans hgroup))))

end Sys2Proof.Machine
end

section
/-! A COMMIT of a Group Descriptor entry (R166, R167). -/

namespace Sys2Proof.Machine

variable {s s' t t' m : State} {u v w : Tag} {c : Occurrence} {h : HostId} {n : LineId} {g k : GroupId} {rt : RequestTag} {x : Session}
  {new : GroupDescriptor} {ns : List LineId}

/-! ### Member triggers one after the other -/

/-- Each of these sources fires a member trigger. -/
def triggerAll (g : GroupId) (ns : List LineId) (s : State) : State := ns.foldl (fun s n => memberTrigger n g s) s

theorem triggerAll_cons (g : GroupId) (n : LineId) (ns : List LineId) (s : State) :
    triggerAll g (n :: ns) s = triggerAll g ns (memberTrigger n g s) := rfl

theorem firing_congr (hlines : s'.lineSources = s.lineSources) : firing s' ns = firing s ns := by
  simp only [firing, State.stands, State.line, hlines]

theorem fireMembers_eq (g : GroupId) : ∀ (ns : List LineId) (s : State), fireMembers g ns s = triggerAll g (firing s ns) s := by
  intro ns
  induction ns with
  | nil => exact fun _ => rfl
  | cons n ns ih =>
    intro s
    have hcons : fireMembers g (n :: ns) s =
        fireMembers g ns (if (s.line n).desc.enabled ∧ s.stands n then memberTrigger n g s else s) := rfl
    by_cases hfires : (s.line n).desc.enabled = true ∧ s.stands n = true
    · have hfiring : firing s (n :: ns) = n :: firing s ns := List.filter_cons_of_pos (by simpa using hfires)
      rw [hcons, if_pos hfires, ih, firing_congr (groupChange_memberTrigger n g s).lines, hfiring, triggerAll_cons]
    · have hfiring : firing s (n :: ns) = firing s ns := List.filter_cons_of_neg (by simpa using hfires)
      rw [hcons, if_neg hfires, ih, hfiring]

theorem groupChange_triggerAll (g : GroupId) : ∀ (ns : List LineId) (s : State), GroupChange g s (triggerAll g ns s) := by
  intro ns
  induction ns with
  | nil => exact fun s => .refl g s
  | cons n ns ih => exact fun s => (groupChange_memberTrigger n g s).trans (ih _)

/-- A member trigger at an enabled group collects the source, whatever else it does (R101). -/
theorem memberTrigger_group (n : LineId) (henabled : (s.group g).desc.enabled = true) : ∃ q l b,
    (memberTrigger n g s).group g =
      { s.group g with collect := insertSource n (s.group g).collect, seq := q, live := l, starved := b } := by
  have htriggered := fun w => (memberTriggered_memberTrigger s n g w).2 henabled
  cases hstarved : (s.group g).starved with
  | true =>
    obtain ⟨hgroup, -⟩ := (htriggered 0).1 hstarved
    exact ⟨_, _, _, hgroup⟩
  | false =>
    cases hlive : (s.group g).live with
    | some w =>
      obtain ⟨hgroup, -⟩ := (htriggered w).2.2 hstarved hlive
      exact ⟨_, _, _, hgroup⟩
    | none =>
      cases hfree : s.freeTag with
      | some w =>
        obtain ⟨hcreates, -⟩ := (htriggered w).2.1 hstarved hlive
        exact ⟨_, _, _, (hcreates ((State.freeTag_eq_some_iff s w).mp hfree)).1⟩
      | none =>
        obtain ⟨-, hstarves⟩ := (htriggered 0).2.1 hstarved hlive
        exact ⟨_, _, _, (hstarves ((State.freeTag_eq_none_iff s).mp hfree)).1⟩

theorem triggerAll_collect : ∀ (ns : List LineId) (s : State), (s.group g).desc.enabled = true →
    ((triggerAll g ns s).group g).collect = insertAll ns (s.group g).collect := by
  intro ns
  induction ns with
  | nil => exact fun _ _ => rfl
  | cons n ns ih =>
    intro s henabled
    obtain ⟨q, l, b, hgroup⟩ := memberTrigger_group n henabled
    rw [triggerAll_cons, ih _ (by rw [hgroup]; exact henabled), hgroup]
    rfl

/-- Triggers at a starved group do no more than collect (R106). -/
theorem triggerAll_of_starved : ∀ (ns : List LineId) (s : State), (s.group g).desc.enabled = true → (s.group g).starved = true →
    (triggerAll g ns s).group g = { s.group g with collect := insertAll ns (s.group g).collect } ∧
      SamePool s (triggerAll g ns s) := by
  intro ns
  induction ns with
  | nil => exact fun _ _ _ => ⟨rfl, rfl, rfl⟩
  | cons n ns ih =>
    intro s henabled hstarved
    obtain ⟨hgroup, hpool⟩ := ((memberTriggered_memberTrigger s n g 0).2 henabled).1 hstarved
    obtain ⟨hrest, hrestPool⟩ := ih (memberTrigger n g s) (by rw [hgroup]; exact henabled) (by rw [hgroup]; exact hstarved)
    rw [triggerAll_cons]
    refine ⟨hrest.trans (by rw [hgroup]; rfl), hrestPool.1.trans hpool.1, hrestPool.2.trans hpool.2⟩

/-- Triggers at a group with a PENDING record merge into it (R102). -/
theorem triggerAll_of_pending : ∀ (ns : List LineId) (s : State) (c : Occurrence), (s.group g).desc.enabled = true →
    (s.group g).starved = false → (s.group g).live = some u → s.occ u = some c → c.phase.isPending = true →
    c.merge + ns.length ≤ 255 →
    (triggerAll g ns s).group g = { s.group g with collect := insertAll ns (s.group g).collect } ∧
      (triggerAll g ns s).lists = s.lists ∧ OtherRecordsKept u s (triggerAll g ns s) ∧
      (triggerAll g ns s).record u = { s.record u with occ := some { c with merge := c.merge + ns.length } } := by
  intro ns
  induction ns with
  | nil =>
    intro s c _ _ _ hc _ _
    refine ⟨rfl, rfl, fun _ _ => rfl, ?_⟩
    show s.record u = { s.record u with occ := some c }
    rw [← hc]
    rfl
  | cons n ns ih =>
    intro s c henabled hstarved hlive hc hpending hbound
    rw [List.length_cons] at hbound
    obtain ⟨hgroup, hlists, hothers, hrecord⟩ := ((memberTriggered_memberTrigger s n g u).2 henabled).2.2 hstarved hlive
    have hmerged : (memberTrigger n g s).record u = { s.record u with occ := some { c with merge := c.merge + 1 } } := by
      rw [hrecord, hc, Option.map_some, if_pos hpending, Nat.min_eq_right (by omega)]
    obtain ⟨hrest, hrestLists, hrestOthers, hrestRecord⟩ := ih (memberTrigger n g s) { c with merge := c.merge + 1 }
      (by rw [hgroup]; exact henabled) (by rw [hgroup]; exact hstarved) (by rw [hgroup]; exact hlive)
      (by rw [State.occ, hmerged]) hpending (by show c.merge + 1 + ns.length ≤ 255; omega)
    rw [triggerAll_cons]
    refine ⟨hrest.trans (by rw [hgroup]; rfl), hrestLists.trans hlists,
      fun v hv => (hrestOthers v hv).trans (hothers v hv), ?_⟩
    rw [hrestRecord, hmerged, List.length_cons]
    simp only [Nat.add_assoc, Nat.add_comm 1]

/-- The first trigger at a group without a live record requests one, and the others merge into it (R102). -/
theorem triggerAll_of_free (henabled : (s.group g).desc.enabled = true) (hstarved : (s.group g).starved = false)
    (hlive : (s.group g).live = none) (hfree : LowestFree s u) (hbound : ns.length ≤ 255) :
    (triggerAll g (n :: ns) s).group g = { s.group g with
      collect := insertAll (n :: ns) (s.group g).collect, seq := (s.group g).seq + 1, live := some u } ∧
    EntersPending s (triggerAll g (n :: ns) s) u (s.group g).desc.terms
      (createdFields (.group g) ((s.group g).seq + 1) (s.group g).desc.terms.level ns.length none 0) := by
  obtain ⟨hcreates, -⟩ := ((memberTriggered_memberTrigger s n g u).2 henabled).2.1 hstarved hlive
  obtain ⟨hgroup, hentered, hjoined, hlists, hothers⟩ := hcreates hfree
  have hrest : ∀ c : Occurrence, (memberTrigger n g s).occ u = some c → c.phase.isPending = true → c.merge = 0 → _ :=
    fun c hc hpending hmerge => triggerAll_of_pending (g := g) (u := u) ns (memberTrigger n g s) c (by rw [hgroup]; exact henabled)
      (by rw [hgroup]; exact hstarved) (by rw [hgroup]) hc hpending (by omega)
  rw [triggerAll_cons]
  obtain ⟨hwindow, hr⟩ | ⟨hwindow, hr⟩ := hentered
  all_goals
    obtain ⟨hcollected, hsame, hkept, hrecord⟩ := hrest _ (by rw [State.occ, hr]) rfl rfl
    have hlist : ∀ l, (triggerAll g ns (memberTrigger n g s)).list l = (memberTrigger n g s).list l := fun l => by
      rw [State.list, hsame, State.list]
    rw [hr] at hrecord
    simp only [createdFields, Nat.zero_add] at hrecord
    refine ⟨hcollected.trans (by rw [hgroup]; rfl), ?_, (hlist _).trans hjoined, fun l hl => (hlist l).trans (hlists l hl),
      fun v hv => (hkept v hv).trans (hothers v hv)⟩
  · exact .inl ⟨hwindow, hrecord⟩
  · exact .inr ⟨hwindow, hrecord⟩

/-- With no tag FREE the first trigger starves the group, and the others are collected (R106). -/
theorem triggerAll_of_full (henabled : (s.group g).desc.enabled = true) (hstarved : (s.group g).starved = false)
    (hlive : (s.group g).live = none) (hfull : ∀ v, s.occ v ≠ none) :
    (triggerAll g (n :: ns) s).group g = { s.group g with
      collect := insertAll (n :: ns) (s.group g).collect, starved := true } ∧ SamePool s (triggerAll g (n :: ns) s) := by
  obtain ⟨-, hstarves⟩ := ((memberTriggered_memberTrigger s n g 0).2 henabled).2.1 hstarved hlive
  obtain ⟨hgroup, hpool⟩ := hstarves hfull
  obtain ⟨hrest, hrestPool⟩ := triggerAll_of_starved ns (memberTrigger n g s) (by rw [hgroup]; exact henabled) (by rw [hgroup])
  rw [triggerAll_cons]
  exact ⟨hrest.trans (by rw [hgroup]; rfl), hrestPool.1.trans hpool.1, hrestPool.2.trans hpool.2⟩

/-! ### The entry, by what it does to the enabled field (R166) -/

/-- The new descriptor is in place (R166 step 1). -/
def describedGroup (g : GroupId) (new : GroupDescriptor) (s : State) : State := s.setGroup g { s.group g with desc := new }

theorem describedGroup_group (s : State) (g k : GroupId) (new : GroupDescriptor) :
    (describedGroup g new s).group k = if k = g then { s.group g with desc := new } else s.group k := by
  by_cases hk : k = g
  · subst hk
    rw [if_pos rfl, describedGroup, State.group_setGroup_same]
  · rw [if_neg hk, describedGroup, State.group_setGroup_ne _ _ _ _ hk]

theorem groupChange_commitTerms (s : State) (o : Origin) (old new : Terms) : GroupChange g s (commitTerms o old new s) := by
  obtain ⟨y, z, hform⟩ := commitTerms_eq o old new s
  rw [hform]
  exact ⟨rfl, rfl, fun _ _ => rfl, rfl⟩

/-- The state after the descriptor, the level and the preferred host. -/
def groupTerms (g : GroupId) (new : GroupDescriptor) (s : State) : State :=
  commitTerms (.group g) (s.group g).desc.terms new.terms (describedGroup g new s)

theorem applyGroup_same (heq : (s.group g).desc.enabled = new.enabled) (l : List StagedEntry) :
    applyGroup l g new s = groupTerms g new s := by
  simp only [applyGroup, heq]
  cases new.enabled <;> rfl

theorem applyGroup_disables (hon : (s.group g).desc.enabled = true) (hoff : new.enabled = false) (l : List StagedEntry) :
    applyGroup l g new s =
      commitTerms (.group g) (s.group g).desc.terms new.terms (disableGroup g (describedGroup g new s)) := by
  simp only [applyGroup, hon, hoff]
  rfl

/-- The members that fire at the enabling: those that stand and that the list does not disable. -/
def enabledMembers (l : List StagedEntry) (g : GroupId) (s : State) : List LineId :=
  firing s ((s.membersOf g).filter (fun n => !disabledBy l n))

theorem applyGroup_enables (hoff : (s.group g).desc.enabled = false) (hon : new.enabled = true) (l : List StagedEntry) :
    applyGroup l g new s = triggerAll g (enabledMembers l g s) (groupTerms g new s) := by
  have hlines : (groupTerms g new s).lineSources = s.lineSources :=
    (groupChange_commitTerms (g := g) (describedGroup g new s) _ _ _).lines
  have hmembers : (groupTerms g new s).membersOf g = s.membersOf g := by
    unfold State.membersOf State.line
    rw [hlines]
  have hentry : applyGroup l g new s =
      fireMembers g (((groupTerms g new s).membersOf g).filter (fun n => !disabledBy l n)) (groupTerms g new s) := by
    simp only [applyGroup, hoff, hon]
    rfl
  rw [hentry, hmembers, fireMembers_eq, firing_congr hlines, enabledMembers]

theorem groupChange_groupTerms (g : GroupId) (new : GroupDescriptor) (s : State) : GroupChange g s (groupTerms g new s) :=
  (groupChange_setGroup g s _).trans (groupChange_commitTerms _ _ _ _)

theorem disableGroup_of_none (hnone : NoPendingRecord s (.group g)) :
    disableGroup g s = s.setGroup g { s.group g with collect := [], starved := false } := by
  rw [disableGroup, withdraw, (State.pendingTag_eq_none_iff s _).mpr hnone]

theorem groupChange_applyGroup (l : List StagedEntry)
    (hkept : NoPendingRecord s (.group g) ∨ (s.group g).desc.enabled = false ∨ new.enabled = true) :
    GroupChange g s (applyGroup l g new s) := by
  cases hold : (s.group g).desc.enabled <;> cases hnew : new.enabled
  case false.false | true.true =>
    rw [applyGroup_same (hold.trans hnew.symm)]
    exact groupChange_groupTerms g new s
  case false.true =>
    rw [applyGroup_enables hold hnew]
    exact (groupChange_groupTerms g new s).trans (groupChange_triggerAll g _ _)
  case true.false =>
    have hnone : NoPendingRecord (describedGroup g new s) (.group g) := by
      rcases hkept with hnone | hoff | hon
      · exact hnone
      · exact absurd (hold.symm.trans hoff) nofun
      · exact absurd (hnew.symm.trans hon) nofun
    rw [applyGroup_disables hold hnew, disableGroup_of_none hnone]
    exact ((groupChange_setGroup g s _).trans (groupChange_setGroup g _ _)).trans (groupChange_commitTerms _ _ _ _)

theorem groupTerms_group (g : GroupId) (new : GroupDescriptor) (s : State) :
    (groupTerms g new s).group g = { s.group g with desc := new } := by
  obtain ⟨y, z, hform⟩ := commitTerms_eq (.group g) (s.group g).desc.terms new.terms (describedGroup g new s)
  rw [groupTerms, hform]
  exact (describedGroup_group s g g new).trans (if_pos rfl)

theorem groupTerms_of_none (hnone : NoPendingRecord s (.group g)) : groupTerms g new s = describedGroup g new s :=
  commitTerms_of_none _ _ _ hnone

theorem groupTerms_of_pending (hc : s.occ u = some c) (honly : OnlyPending s (.group g) u c) :
    OtherRecordsKept u s (groupTerms g new s) ∧ MovedAndOpened s (groupTerms g new s) u c (s.group g).desc.terms new.terms := by
  have htag : (describedGroup g new s).pendingTag (.group g) = some u :=
    State.pendingTag_of_onlyPending (s := describedGroup g new s) hc honly
  obtain ⟨hmoved, hothers, -⟩ := movedAndOpened_commitTerms (s := describedGroup g new s) (s.group g).desc.terms new.terms htag hc
  exact ⟨hothers, hmoved⟩

/-! ### The disabling -/

theorem applyGroup_disables_of_none (hon : (s.group g).desc.enabled = true) (hoff : new.enabled = false)
    (hnone : NoPendingRecord s (.group g)) (l : List StagedEntry) :
    (applyGroup l g new s).group g = { s.group g with desc := new, collect := [], starved := false } ∧
      SamePool s (applyGroup l g new s) := by
  have hdisabled := disableGroup_of_none (s := describedGroup g new s) hnone
  rw [applyGroup_disables hon hoff, hdisabled,
    commitTerms_of_none (s := (describedGroup g new s).setGroup g _) _ _ _ hnone]
  refine ⟨?_, rfl, rfl⟩
  rw [State.group_setGroup_same, describedGroup_group, if_pos rfl]

/-- A group without a mark takes part in no grant, whatever its descriptor. -/
theorem sameStarved_setGroup {y : Group} (hs : (s.group g).starved = false) (hy : y.starved = false) :
    SameStarved s (s.setGroup g y) := by
  refine ⟨fun _ => .rfl, fun _ _ => rfl, fun k => ?_, fun k hk => State.group_setGroup_ne _ _ _ _ ?_⟩
  · by_cases hk : k = g
    · subst hk
      rw [State.group_setGroup_same, hs, hy]
    · rw [State.group_setGroup_ne _ _ _ _ hk]
  · rintro rfl
    exact absurd (hs.symm.trans hk) nofun

theorem applyGroup_withdraws (hon : (s.group g).desc.enabled = true) (hoff : new.enabled = false) (hc : s.occ u = some c)
    (honly : OnlyPending s (.group g) u c) (hunstarved : (s.group g).starved = false) (l : List StagedEntry) :
    (applyGroup l g new s).group g = { s.group g with desc := new, collect := [], live := none } ∧
      WithdrawnByCommit s (applyGroup l g new s) u c ∧ SourcesAfterFreeing s (applyGroup l g new s) ∧
      ∀ k, k ≠ g → (applyGroup l g new s).group k = groupAfterFreeing s u (.group g) k := by
  have hca : (describedGroup g new s).occ u = some c := hc
  have hsame : SameStarved (withoutPending s u c) (withoutPending (describedGroup g new s) u c) :=
    sameStarved_setGroup (s := withoutPending s u c) hunstarved hunstarved
  obtain ⟨htag, hrecords, ⟨hlines, hposted⟩, hgroups⟩ := tagFreed_of_pending hca honly.2.1
  have hnotFirst : ∀ k, FirstStarvedGroup (withoutPending (describedGroup g new s) u c) k → Origin.group g ≠ .group k := by
    rintro k hk ⟨⟩
    have hmarked := ((hsame.firstGroup g).mp hk).1
    exact absurd (hmarked.symm.trans hunstarved) nofun
  have hwithdraw : withdraw (.group g) (describedGroup g new s) = freeRecord u (describedGroup g new s) := by
    rw [withdraw, State.pendingTag_of_onlyPending (s := describedGroup g new s) hca honly]
  obtain ⟨f, hf⟩ : ∃ f, f = freeRecord u (describedGroup g new s) := ⟨_, rfl⟩
  rw [← hf] at htag hrecords hlines hposted hgroups hwithdraw
  have hfnone : NoPendingRecord f (.group g) := onlyPending_noPending_after hc honly htag (fun _ _ => nofun) hnotFirst hrecords
  have hentry : applyGroup l g new s = f.setGroup g { f.group g with collect := [], starved := false } := by
    rw [applyGroup_disables hon hoff, disableGroup, hwithdraw]
    exact commitTerms_of_none _ _ _ hfnone
  rw [hentry]
  refine ⟨?_, ⟨?_, hrecords⟩, ⟨fun m => (hlines m).trans (hsame.lineAfterFreeing rfl), hposted⟩, fun k hk => ?_⟩
  · rw [State.group_setGroup_same, hgroups, honly.1, Machine.groupAfterFreeing, if_pos rfl, if_neg fun h' => hnotFirst g h' rfl]
    show { (describedGroup g new s).group g with live := none, collect := [], starved := false } = _
    rw [describedGroup_group, if_pos rfl, ← hunstarved]
  · exact hsame.tagAfterFreeing rfl rfl (fun _ => rfl) htag
  · rw [State.group_setGroup_ne _ _ _ _ hk, hgroups, honly.1]
    exact hsame.groupAfterFreeing ((describedGroup_group s g k new).trans (if_neg hk)) _

/-! ### The enabling -/

theorem enabledMembers_singleton (s : State) (g : GroupId) : enabledMembers [.group g new] g s = standingMembers s g := by
  have hnone : ∀ n, disabledBy [.group g new] n = false := fun _ => rfl
  simp only [enabledMembers, hnone, Bool.not_false, Bool.true_and, firing, State.membersOf, List.filter_filter, standingMembers,
    State.stands_eq, Bool.and_assoc, lineIds, Bool.and_comm, Bool.and_left_comm]

theorem standingMembers_length (s : State) (g : GroupId) : (standingMembers s g).length ≤ 48 :=
  (List.length_filter_le _ _).trans (List.length_finRange).le

/-- Enabling a group without a PENDING record fires its standing members. -/
theorem applyGroup_fires (hoff : (s.group g).desc.enabled = false) (hon : new.enabled = true)
    (hnone : NoPendingRecord s (.group g)) :
    applyGroup [.group g new] g new s = triggerAll g (standingMembers s g) (describedGroup g new s) := by
  rw [applyGroup_enables hoff hon, enabledMembers_singleton, groupTerms_of_none hnone]

theorem applyGroup_fires_nothing (hoff : (s.group g).desc.enabled = false) (hon : new.enabled = true)
    (hnone : NoPendingRecord s (.group g)) (hstanding : standingMembers s g = []) :
    (applyGroup [.group g new] g new s).group g = { s.group g with desc := new } ∧ SamePool s (applyGroup [.group g new] g new s) := by
  rw [applyGroup_fires hoff hon hnone, hstanding]
  exact ⟨(describedGroup_group s g g new).trans (if_pos rfl), rfl, rfl⟩

theorem applyGroup_fires_outcomes (hoff : (s.group g).desc.enabled = false) (hon : new.enabled = true)
    (hnone : NoPendingRecord s (.group g)) (hstanding : standingMembers s g ≠ []) (hstarved : (s.group g).starved = false) (u : Tag) :
    (∀ n, n ∈ ((applyGroup [.group g new] g new s).group g).collect ↔ n ∈ (s.group g).collect ∨ n ∈ standingMembers s g) ∧
    ((s.group g).live = none → LowestFree s u →
      (applyGroup [.group g new] g new s).group g = { s.group g with
        desc := new, collect := ((applyGroup [.group g new] g new s).group g).collect
        seq := (s.group g).seq + 1, live := some u } ∧
      EntersPending s (applyGroup [.group g new] g new s) u new.terms
        (createdFields (.group g) ((s.group g).seq + 1) new.terms.level ((standingMembers s g).length - 1) none 0)) ∧
    ((s.group g).live = none → (∀ v, s.occ v ≠ none) →
      (applyGroup [.group g new] g new s).group g = { s.group g with
        desc := new, collect := ((applyGroup [.group g new] g new s).group g).collect, starved := true } ∧
      SamePool s (applyGroup [.group g new] g new s)) ∧
    ((s.group g).live = some u → (s.occ u).any (fun c => c.phase.isClaimed) = true →
      (applyGroup [.group g new] g new s).group g = { s.group g with
        desc := new, collect := ((applyGroup [.group g new] g new s).group g).collect } ∧
      SamePool s (applyGroup [.group g new] g new s)) := by
  have hown : (describedGroup g new s).group g = { s.group g with desc := new } :=
    (describedGroup_group s g g new).trans (if_pos rfl)
  have henabled : ((describedGroup g new s).group g).desc.enabled = true := by rw [hown]; exact hon
  have hunstarved : ((describedGroup g new s).group g).starved = false := by rw [hown]; exact hstarved
  have hcollect := triggerAll_collect (standingMembers s g) (describedGroup g new s) henabled
  have hbound := standingMembers_length s g
  rw [applyGroup_fires hoff hon hnone]
  rw [hown] at hcollect
  obtain ⟨n, ns, hcons⟩ := List.exists_cons_of_ne_nil hstanding
  refine ⟨fun m => ?_, fun hlive hfree => ?_, fun hlive hfull => ?_, fun hlive hclaimed => ?_⟩
  · rw [hcollect, mem_insertAll, or_comm]
  · have hnolive : ((describedGroup g new s).group g).live = none := by rw [hown]; exact hlive
    rw [hcons, List.length_cons] at hbound
    obtain ⟨hgroup, hentered⟩ := triggerAll_of_free (n := n) (ns := ns) henabled hunstarved hnolive hfree (by omega)
    rw [← hcons] at hgroup hentered
    rw [hown] at hgroup hentered
    rw [hcollect, hcons, List.length_cons, Nat.add_sub_cancel, ← hcons]
    exact ⟨hgroup, hentered⟩
  · have hnolive : ((describedGroup g new s).group g).live = none := by rw [hown]; exact hlive
    obtain ⟨hgroup, hpool⟩ := triggerAll_of_full (n := n) (ns := ns) henabled hunstarved hnolive hfull
    rw [← hcons] at hgroup hpool
    rw [hown] at hgroup
    rw [hcollect]
    exact ⟨hgroup, hpool⟩
  · cases hc : s.occ u with
    | none => simp [hc] at hclaimed
    | some c =>
      rw [hc, Option.any_some] at hclaimed
      have hlive' : ((describedGroup g new s).group g).live = some u := by rw [hown]; exact hlive
      have hfired : triggerAll g (standingMembers s g) (describedGroup g new s) = (describedGroup g new s).setGroup g
          { (describedGroup g new s).group g with
            collect := insertAll (standingMembers s g) ((describedGroup g new s).group g).collect } := by
        rw [← enabledMembers_singleton (new := new), enabledMembers]
        exact (fireMembers_eq g _ (describedGroup g new s)).symm.trans
          (fireMembers_of_claimed hclaimed _ _ henabled hunstarved hlive' hc)
      rw [hcollect, hfired, State.group_setGroup_same, hown]
      exact ⟨rfl, rfl, rfl⟩

/-! ### Two entries, of a group and of a member -/

theorem commitTerms_same (o : Origin) (terms : Terms) (s : State) : commitTerms o terms terms s = s := by
  simp [commitTerms]

/-- Enabling a group none of whose members fires does no more than that. -/
theorem applyGroup_fires_none (hoff : (s.group g).desc.enabled = false) (hon : new.enabled = true)
    (hterms : (s.group g).desc.terms = new.terms ∨ NoPendingRecord s (.group g)) {l : List StagedEntry}
    (hquiet : ∀ m ∈ standingMembers s g, disabledBy l m = true) : applyGroup l g new s = describedGroup g new s := by
  have hmembers : enabledMembers l g s = [] := by
    simp only [enabledMembers, firing, List.filter_filter, List.filter_eq_nil_iff, State.mem_membersOf, Bool.and_eq_true,
      Bool.not_eq_true']
    rintro m hm ⟨⟨henabled, hstands⟩, hnot⟩
    have hstanding : m ∈ standingMembers s g := by
      rw [State.stands_eq] at hstands
      rw [standingMembers, List.mem_filter, hm, henabled, hstands]
      simp
    exact absurd ((hquiet m hstanding).symm.trans hnot) nofun
  have hgroupTerms : groupTerms g new s = describedGroup g new s := by
    rcases hterms with heq | hnone
    · rw [groupTerms, heq]
      exact commitTerms_same _ _ _
    · exact groupTerms_of_none hnone
  rw [applyGroup_enables hoff hon, hmembers, hgroupTerms]
  rfl

/-- Disabling a member without a PENDING record: it leaves the collect set of its group. -/
theorem applyLine_disables_member {e : SourceDescriptor} (hon : (s.line n).desc.enabled = true)
    (hgroup : (s.line n).desc.group = some g) (hoff : e.enabled = false) (hnone : NoPendingRecord s (.line n)) :
    (applyLine n e s).group g = leftBy n (s.group g) ∧ OtherGroupsKept g s (applyLine n e s) ∧
      ((applyLine n e s).line n).desc = e ∧ ((applyLine n e s).line n).seq = (s.line n).seq ∧
      OtherLinesKept n s (applyLine n e s) ∧ SamePool s (applyLine n e s) := by
  have hentry : applyLine n e s = marked n e s := by
    rw [applyLine_eq, commitFiring_of_disabled hoff]
    rfl
  obtain ⟨hpool, hline⟩ := marked_of_disabled hnone hoff
  obtain ⟨-, -, hothers, -, hgroups⟩ := marked_keeps (new := e) hnone
  have hleaves : leavesGroup (s.line n).desc e = true := leavesGroup_iff.mpr (.inr ⟨hon, hoff⟩)
  rw [hentry]
  refine ⟨(hgroups g).trans (if_pos ⟨hgroup, hleaves⟩), fun k hk => (hgroups k).trans (if_neg fun h' => ?_), ?_, ?_, hothers, hpool⟩
  · exact hk (Option.some.inj (h'.1.symm.trans hgroup))
  · rw [hline]
  · rw [hline]

/-- The standing members of a group but `n` are settled by the other sources. -/
theorem mem_standingMembers_of_others (hlines : OtherLinesKept n s s') {i : LineId} (hi : i ≠ n) :
    i ∈ standingMembers s' g ↔ i ∈ standingMembers s g := by
  simp only [standingMembers, List.mem_filter, hlines i hi]

/-- The two entries in either order. -/
theorem applyEntries_group_member {d : GroupDescriptor} {e : SourceDescriptor} {l : List StagedEntry}
    (hl : l = [.group g d, .line n e] ∨ l = [.line n e, .group g d]) (hoff : (s.group g).desc.enabled = false)
    (hon : d.enabled = true) (hline : (s.line n).desc.enabled = true) (hgroup : (s.line n).desc.group = some g)
    (hdis : e.enabled = false) (hstanding : ∀ m ∈ standingMembers s g, m = n) (hnone : NoPendingRecord s (.line n))
    (hterms : (s.group g).desc.terms = d.terms ∨ NoPendingRecord s (.group g)) :
    ∃ t, l.foldl (applyEntry l) s = t ∧ t.group g = leftBy n { s.group g with desc := d } ∧ OtherGroupsKept g s t ∧
      (t.line n).desc = e ∧ (t.line n).seq = (s.line n).seq ∧ OtherLinesKept n s t ∧ SamePool s t := by
  have hdisabled : disabledBy l n = true := by
    rcases hl with rfl | rfl <;> simp [disabledBy, stagedLine, hdis]
  refine ⟨_, rfl, ?_⟩
  rcases hl with hl | hl
  · have hfirst : applyGroup l g d s = describedGroup g d s :=
      applyGroup_fires_none hoff hon hterms fun m hm => hstanding m hm ▸ hdisabled
    have hfold : l.foldl (applyEntry l) s = applyLine n e (describedGroup g d s) := by
      rw [← hfirst]
      nth_rewrite 2 [hl]
      rfl
    obtain ⟨hown, hothers, hrest⟩ := applyLine_disables_member (s := describedGroup g d s) hline hgroup hdis hnone
    have hdescribed := fun k => describedGroup_group s g k d
    rw [hdescribed, if_pos rfl] at hown
    rw [hfold]
    exact ⟨hown, fun k hk => (hothers k hk).trans ((hdescribed k).trans (if_neg hk)), hrest⟩
  · obtain ⟨hown, hothers, hdesc, hseq, hlines, hpool⟩ := applyLine_disables_member (s := s) hline hgroup hdis hnone
    have hfold : l.foldl (applyEntry l) s = applyGroup l g d (applyLine n e s) := by
      nth_rewrite 2 [hl]
      rfl
    obtain ⟨f, hf⟩ : ∃ f, f = applyLine n e s := ⟨_, rfl⟩
    rw [← hf] at hown hothers hdesc hseq hlines hpool hfold
    have hfgroup : (f.group g).desc = (s.group g).desc := by rw [hown]; rfl
    have hocc : ∀ v, f.occ v = s.occ v := fun v => by rw [State.occ, State.record, hpool.1]; rfl
    have hsecond : applyGroup l g d f = describedGroup g d f := by
      refine applyGroup_fires_none (by rw [hfgroup]; exact hoff) hon ?_ fun m hm => ?_
      · rw [hfgroup]
        simpa only [NoPendingRecord, hocc] using hterms
      · by_cases hmn : m = n
        · exact hmn ▸ hdisabled
        · exact absurd (hstanding m ((mem_standingMembers_of_others hlines hmn).mp hm)) hmn
    have hdescribed := fun k => describedGroup_group f g k d
    rw [hfold, hsecond]
    refine ⟨?_, fun k hk => (hdescribed k).trans ((if_neg hk).trans (hothers k hk)), hdesc, hseq, hlines, hpool⟩
    rw [hdescribed, if_pos rfl, hown]
    rfl

/-- Settles O52: one entry by what it does to the enabled field, and the two entries of a group and a member. -/
theorem commitOfAGroupEntry : Obligations.CommitOfAGroupEntry := by
  refine ⟨fun s h rt x g d u hserves hpresent hopen hholder hstaging => ?_,
    fun s h rt x g d n e hserves hpresent hopen hholder hstaging hchecked hoff hon hline hgroup hdis hstanding hnone hterms => ?_⟩
  · obtain ⟨t, hexec, hsame, -, -, -, hattn, -⟩ := exec_commit_applied hserves hpresent hopen hholder (by
      rw [hstaging]
      simp [failsCheck])
    rw [applied_singleton hstaging, applyEntry] at hsame
    have hdesc : ((applyGroup [.group g d] g d (sessionRestarted x s)).group g).desc = d := by
      rw [State.group_desc_of_descs (descs_applyGroup (sessionRestarted x s) _ g d) g, State.group_setGroup_same]
    have hkept := groupChange_applyGroup (s := sessionRestarted x s) (g := g) (new := d) [.group g d]
    have hquiet := fun hon hoff hnone =>
      applyGroup_disables_of_none (s := sessionRestarted x s) (g := g) (new := d) hon hoff hnone [.group g d]
    have hwithdrawn := fun hon hoff c (hc : s.occ u = some c) honly hunstarved =>
      applyGroup_withdraws (s := sessionRestarted x s) (g := g) (new := d) hon hoff hc honly hunstarved [.group g d]
    have hstays := fun heq => applyGroup_same (s := sessionRestarted x s) (g := g) (new := d) heq [.group g d]
    have hown := groupTerms_group g d (sessionRestarted x s)
    have hpool : NoPendingRecord s (.group g) → SamePool s (groupTerms g d (sessionRestarted x s)) := fun hnone => by
      rw [groupTerms_of_none (s := sessionRestarted x s) hnone]
      exact ⟨rfl, rfl⟩
    have hmoved := fun c (hc : s.occ u = some c) honly =>
      groupTerms_of_pending (s := sessionRestarted x s) (g := g) (new := d) hc honly
    have hidle := fun hoff hon hnone => applyGroup_fires_nothing (s := sessionRestarted x s) (g := g) (new := d) hoff hon hnone
    have houtcomes := fun hoff hon hnone hstanding hunstarved =>
      applyGroup_fires_outcomes (s := sessionRestarted x s) (g := g) (new := d) hoff hon hnone hstanding hunstarved u
    obtain ⟨f, hf⟩ : ∃ f, f = applyGroup [.group g d] g d (sessionRestarted x s) := ⟨_, rfl⟩
    rw [← hf] at hsame hdesc hkept hquiet hwithdrawn hstays hidle houtcomes
    clear hf
    obtain ⟨_, _, _, _, rfl⟩ := hsame
    refine ⟨_, hexec, hdesc, hattn, fun hcase => ?_, fun hon hoff => ⟨hquiet hon hoff, fun c hc honly hunstarved =>
      hwithdrawn hon hoff c hc honly hunstarved⟩, fun heq => ?_, fun hoff hon hnone => ⟨hidle hoff hon hnone, houtcomes hoff hon hnone⟩⟩
    · have hchange := hkept hcase
      exact ⟨⟨hchange.lines, hchange.posted⟩, hchange.groups⟩
    · obtain rfl := hstays heq
      exact ⟨hown, hpool, hmoved⟩
  · obtain ⟨t, hexec, hsame, -, -, -, -, -⟩ := exec_commit_applied hserves hpresent hopen hholder (by
      rcases hstaging with hl | hl <;> rw [hl] at hchecked ⊢ <;> simpa [failsCheck] using hchecked)
    obtain ⟨f, hf, hfacts⟩ := applyEntries_group_member (s := sessionRestarted x s) hstaging hoff hon hline hgroup hdis hstanding
      hnone hterms
    rw [applied, hf] at hsame
    obtain ⟨_, _, _, _, rfl⟩ := hsame
    exact ⟨_, hexec, hfacts⟩

end Sys2Proof.Machine
end
